-- ==== Sys2Proof/Word.lean ====
section
/-! DEFINITION. The word, byte and register-address types (R6, R7, R12, R65). -/

namespace Sys2Proof

/-- A register value, an address or a computed result: 32 bits (R7, R12). -/
abbrev Word := BitVec 32

/-- The unit an address counts: 8 bits (R35). -/
abbrev Byte := BitVec 8

/-- A 6-bit register address (R65). All 64 values can be encoded. -/
abbrev RegAddr := BitVec 6

end Sys2Proof
end

