-- ==== Sys2Proof/Config.lean ====
section
/-! DEFINITION. The parameters that the spec leaves open (R5), with the legal values and the defaults it gives. -/

namespace Sys2Proof

/-- `WINDOW_OVERLAP`: whether the outputs of window w are the inputs of window w+1 (R5, R15). -/
inductive WindowOverlap where
  | overlap
  | disjoint
  deriving DecidableEq, Repr

/-- `IMM_EXT`: how every immediate field is widened to 32 bits (R5, R67). -/
inductive ImmExt where
  | sign
  | zero
  deriving DecidableEq, Repr

/-- `ICC_LAYOUT`: the function from result, carry and overflow to the word written to `$icc` (R5, R22).
`standard` is the spec's default. `implementation` stands for any other total function: it is
`Config.implementationIcc`, which has no body (log 5). -/
inductive IccLayout where
  | standard
  | implementation
  deriving DecidableEq, Repr

/-- `SUB_CARRY`: what carry means for a subtraction (R5, R79). -/
inductive SubCarry where
  | borrow
  | notBorrow
  deriving DecidableEq, Repr

/-- `LINK_NOT_TAKEN`: whether a conditional jump that is not taken writes its link (R5, R136). -/
inductive LinkNotTaken where
  | write
  | skip
  deriving DecidableEq, Repr

/-- `ANNUL_NOT_TAKEN`: whether the annul bit acts on a jump that is not taken (R5, R136). -/
inductive AnnulNotTaken where
  | execute
  | annul
  deriving DecidableEq, Repr

/-- `UNARY_SRC`: which input the one-operand logic functions use (R5, R91). -/
inductive UnarySrc where
  | in1
  | in2
  deriving DecidableEq, Repr

/-- `LOGIC2_MAP`: which function each value of T selects in opcode 3 (R5, R88, R89). -/
inductive Logic2Map where
  | literal
  | shifted
  | strict
  deriving DecidableEq, Repr

/-- `SHIFT_COUNT`: how a shift count of 32 or more is treated (R5, R108). -/
inductive ShiftCount where
  | full
  | mod32
  | refuse
  deriving DecidableEq, Repr

/-- `BYTE_ORDER`: the order of the four bytes of a word in memory (R5, R42). -/
inductive ByteOrder where
  | big
  | little
  deriving DecidableEq, Repr

/-- A run of byte addresses, `base` to `base + size - 1`. -/
structure Region where
  base : Nat
  size : Nat
  deriving DecidableEq, Repr

/-- The fifteen open parameters of R5, fixed for a whole run (R10). -/
structure Config where
  /-- `NWINDOWS`, an integer of at least 2. -/
  nwindows : Nat
  windowOverlap : WindowOverlap
  immExt : ImmExt
  iccLayout : IccLayout
  subCarry : SubCarry
  /-- `JUMP_SENSE`: the value of the selected `$icc` bit for which a conditional jump is taken. -/
  jumpSense : Bool
  linkNotTaken : LinkNotTaken
  annulNotTaken : AnnulNotTaken
  unarySrc : UnarySrc
  logic2Map : Logic2Map
  shiftCount : ShiftCount
  byteOrder : ByteOrder
  /-- `MEM_VALID`: an aligned word holds memory when it lies inside one of these regions. Every subset
  of the multiples of 4 below 2^32 can be listed so. -/
  memValid : List Region
  resetPc : Word
  /-- `RESET_CWP`, below `NWINDOWS`. -/
  resetCwp : Nat
  deriving DecidableEq, Repr

/-- The layout of `$icc` under `IccLayout.implementation`: any total function (R22). It has no body, so
nothing can be proved of the word it gives (log 5). -/
opaque Config.implementationIcc (result : Word) (carry overflow : Bool) : Word

/-- The legal values of R5 that the types above do not already force: at least two windows, a reset
address that is a multiple of 4 and a reset index inside the windows. -/
def Config.legal (c : Config) : Bool :=
  decide (2 ≤ c.nwindows) && c.resetPc.toNat % 4 == 0 && decide (c.resetCwp < c.nwindows)

/-- The defaults of R5. R5 gives `MEM_VALID` no default; here it is the whole address space
(DESIGN CHOICE, unsafe, log 4). -/
def Config.default : Config where
  nwindows := 8
  windowOverlap := .overlap
  immExt := .sign
  iccLayout := .standard
  subCarry := .borrow
  jumpSense := true
  linkNotTaken := .write
  annulNotTaken := .execute
  unarySrc := .in1
  logic2Map := .literal
  shiftCount := .full
  byteOrder := .big
  memValid := [{ base := 0, size := 2 ^ 32 }]
  resetPc := 0
  resetCwp := 0

end Sys2Proof
end

