-- ==== Sys2Proof/Syntax.lean ====
section
/-! DEFINITION. The instructions: one constructor per row of the opcode table (R54), and `pop`, `popi` for the
population count that the words of the rows `lz`, `lzi` compute under `LOGIC2_MAP = shifted` (R89, R92, log 9). -/

namespace Sys2Proof

/-- An instruction form with its operands, destination first (R74). The 6-bit fields `rd`, `r1`, `r2`,
`rt`, `rv`, `dprev`, `dcur` are register addresses (R65); `type` is a bit number of `$icc` (R135). -/
inductive Instr where
  -- No-op (opcode 0)
  | nop
  -- Add/Subtract (opcode 1)
  | sub (rd r1 r2 : RegAddr)
  | subcc (rd r1 r2 : RegAddr)
  | add (rd r1 r2 : RegAddr)
  | addcc (rd r1 r2 : RegAddr)
  | subi (rd : RegAddr) (imm13 : BitVec 13) (r2 : RegAddr)
  | subcci (rd : RegAddr) (imm13 : BitVec 13) (r2 : RegAddr)
  | addi (rd : RegAddr) (imm13 : BitVec 13) (r2 : RegAddr)
  | addcci (rd : RegAddr) (imm13 : BitVec 13) (r2 : RegAddr)
  -- Logic 1 (opcode 2)
  | or (rd r1 r2 : RegAddr)
  | and (rd r1 r2 : RegAddr)
  | xor (rd r1 r2 : RegAddr)
  | not (rd r1 r2 : RegAddr)
  | ori (rd : RegAddr) (imm13 : BitVec 13) (r2 : RegAddr)
  | andi (rd : RegAddr) (imm13 : BitVec 13) (r2 : RegAddr)
  | xori (rd : RegAddr) (imm13 : BitVec 13) (r2 : RegAddr)
  | noti (rd : RegAddr) (imm13 : BitVec 13) (r2 : RegAddr)
  -- Logic 2 (opcode 3)
  | nor (rd r1 r2 : RegAddr)
  | nand (rd r1 r2 : RegAddr)
  | lz (rd r1 r2 : RegAddr)
  | pop (rd r1 r2 : RegAddr)
  | nori (rd : RegAddr) (imm13 : BitVec 13) (r2 : RegAddr)
  | nandi (rd : RegAddr) (imm13 : BitVec 13) (r2 : RegAddr)
  | lzi (rd : RegAddr) (imm13 : BitVec 13) (r2 : RegAddr)
  | popi (rd : RegAddr) (imm13 : BitVec 13) (r2 : RegAddr)
  -- Shift (opcode 4)
  | shl (rd r1 r2 : RegAddr)
  | shr (rd r1 r2 : RegAddr)
  | shlx (rd r1 r2 : RegAddr)
  | shrx (rd r1 r2 : RegAddr)
  | shli (rd : RegAddr) (imm13 : BitVec 13) (r2 : RegAddr)
  | shri (rd : RegAddr) (imm13 : BitVec 13) (r2 : RegAddr)
  | shlxi (rd : RegAddr) (imm13 : BitVec 13) (r2 : RegAddr)
  | shrxi (rd : RegAddr) (imm13 : BitVec 13) (r2 : RegAddr)
  -- Rotate (opcode 5)
  | rol (rd r1 r2 : RegAddr)
  | ror (rd r1 r2 : RegAddr)
  | roli (rd : RegAddr) (imm13 : BitVec 13) (r2 : RegAddr)
  | rori (rd : RegAddr) (imm13 : BitVec 13) (r2 : RegAddr)
  -- Memory Access (opcode 6)
  | ld (rd rt : RegAddr)
  | st (rv rt : RegAddr)
  | sti (imm20 : BitVec 20) (rt : RegAddr)
  -- Register Window (opcode 7)
  | wdec (dprev dcur : RegAddr)
  | winc (dprev dcur : RegAddr)
  -- Link Jump (opcode 8)
  | jl (rd r1 : RegAddr)
  | jlr (rd r1 : RegAddr)
  | jli (rd : RegAddr) (imm20 : BitVec 20)
  | jlri (rd : RegAddr) (imm20 : BitVec 20)
  -- Conditional Jump (opcode 9)
  | jc (rd : RegAddr) (type : BitVec 6) (r1 : RegAddr)
  | jcA (rd : RegAddr) (type : BitVec 6) (r1 : RegAddr)
  | jcr (rd : RegAddr) (type : BitVec 6) (r1 : RegAddr)
  | jcrA (rd : RegAddr) (type : BitVec 6) (r1 : RegAddr)
  | jci (rd : RegAddr) (type : BitVec 6) (imm13 : BitVec 13)
  | jciA (rd : RegAddr) (type : BitVec 6) (imm13 : BitVec 13)
  | jcri (rd : RegAddr) (type : BitVec 6) (imm13 : BitVec 13)
  | jcriA (rd : RegAddr) (type : BitVec 6) (imm13 : BitVec 13)
  -- Load Immediate (opcode A)
  | li (rd : RegAddr) (imm22 : BitVec 22)
  -- Halt (opcode F)
  | halt
  deriving DecidableEq, Repr

/-- The opcode field of each form's family, the "OP 1" of the source's table (R53, R54). -/
def Instr.opcode : Instr → BitVec 4
  | .nop => 0x0
  | .sub .. | .subcc .. | .add .. | .addcc .. | .subi .. | .subcci .. | .addi .. | .addcci .. => 0x1
  | .or .. | .and .. | .xor .. | .not .. | .ori .. | .andi .. | .xori .. | .noti .. => 0x2
  | .nor .. | .nand .. | .lz .. | .pop .. | .nori .. | .nandi .. | .lzi .. | .popi .. => 0x3
  | .shl .. | .shr .. | .shlx .. | .shrx .. | .shli .. | .shri .. | .shlxi .. | .shrxi .. => 0x4
  | .rol .. | .ror .. | .roli .. | .rori .. => 0x5
  | .ld .. | .st .. | .sti .. => 0x6
  | .wdec .. | .winc .. => 0x7
  | .jl .. | .jlr .. | .jli .. | .jlri .. => 0x8
  | .jc .. | .jcA .. | .jcr .. | .jcrA .. | .jci .. | .jciA .. | .jcri .. | .jcriA .. => 0x9
  | .li .. => 0xA
  | .halt => 0xF

end Sys2Proof
end

