-- ==== Sys2Proof/WellFormed.lean ====
section
/-! DEFINITION. Which instruction terms have an encoding under a given `LOGIC2_MAP`. -/

namespace Sys2Proof

/-- `type` names a bit of `$icc`: 0 to 31 (R70, R135). -/
def iccBitOk (type : BitVec 6) : Bool := decide (type.toNat < 32)

/-- The well-formed instructions. The field widths are exact in `Instr`; what is left is that a
Conditional Jump tests a bit `$icc` has (R135), that `strict` gives NAND and leading zeros no encoding
(R89), and that only `shifted` gives the population count one (R92). -/
def wellFormed (m : Logic2Map) : Instr → Bool
  | .nand .. | .nandi .. | .lz .. | .lzi .. => m != .strict
  | .pop .. | .popi .. => m == .shifted
  | .jc _ type _ | .jcA _ type _ | .jcr _ type _ | .jcrA _ type _ => iccBitOk type
  | .jci _ type _ | .jciA _ type _ | .jcri _ type _ | .jcriA _ type _ => iccBitOk type
  | .nop
  | .sub .. | .subcc .. | .add .. | .addcc .. | .subi .. | .subcci .. | .addi .. | .addcci ..
  | .or .. | .and .. | .xor .. | .not .. | .ori .. | .andi .. | .xori .. | .noti ..
  | .nor .. | .nori ..
  | .shl .. | .shr .. | .shlx .. | .shrx .. | .shli .. | .shri .. | .shlxi .. | .shrxi ..
  | .rol .. | .ror .. | .roli .. | .rori ..
  | .ld .. | .st .. | .sti ..
  | .wdec .. | .winc ..
  | .jl .. | .jlr .. | .jli .. | .jlri ..
  | .li .. | .halt => true

end Sys2Proof
end

