-- ==== Sys2Proof/Decode.lean ====
section
/-! DEFINITION. Byte order, the decoder (R51 to R72) and the encoder of the well-formed instructions. -/

namespace Sys2Proof

/-! ### The four bytes of a word -/

/-- The word made of the bytes at `addr`, `addr+1`, `addr+2`, `addr+3` (R42). -/
def wordOfBytes (o : ByteOrder) (b0 b1 b2 b3 : Byte) : Word :=
  match o with
  | .big => b0 ++ b1 ++ b2 ++ b3
  | .little => b3 ++ b2 ++ b1 ++ b0

/-- Byte `k` (0 to 3, counted from the lowest address) of a word in memory (R42). -/
def byteOfWord (o : ByteOrder) (v : Word) (k : Nat) : Byte :=
  match o with
  | .big => v.extractLsb' (8 * (3 - k)) 8
  | .little => v.extractLsb' (8 * k) 8

/-- The four bytes of a word, lowest address first (R42). -/
def bytesOfWord (o : ByteOrder) (v : Word) : List Byte :=
  [byteOfWord o v 0, byteOfWord o v 1, byteOfWord o v 2, byteOfWord o v 3]

/-! ### Decoding -/

/-- Why a word is no instruction. -/
inductive DecodeReject where
  /-- Fewer than four bytes were given: no word (R51). -/
  | truncated
  /-- A reserved opcode, B to E (R69, R147). -/
  | illegalInstruction (w : Word)
  /-- A defined opcode whose other bits have no meaning (R70). -/
  | reservedEncoding (w : Word)
  /-- A Conditional Jump whose `type` is 32 or more (R70, R135). -/
  | iccBit (type : BitVec 6)
  deriving DecidableEq, Repr

/-- The field of `len` bits of `w` whose lowest bit is bit `lo` (R6). -/
def field (w : Word) (lo len : Nat) : BitVec len := w.extractLsb' lo len

/-- Bit `i` of a word (R6). -/
def bitOf (w : Word) (i : Nat) : Bool := w.getLsbD i

/-- The opcode, `w[31:28]` (R53). -/
def fieldOp (w : Word) : BitVec 4 := field w 28 4
/-- `w[5:0]`: `rd`, `rb`, `dcur` (R56 to R63). -/
def fieldRd (w : Word) : RegAddr := field w 0 6
/-- `w[11:6]`: `r2`, `ra`, `dprev`, `type` (R56 to R62). -/
def fieldR2 (w : Word) : RegAddr := field w 6 6
/-- `w[17:12]`: `r1` (R56, R61). -/
def fieldR1 (w : Word) : RegAddr := field w 12 6
/-- `imm13 = w[24:12]` (R67). -/
def fieldImm13 (w : Word) : BitVec 13 := field w 12 13
/-- `imm20 = w[25:6]` (R67). -/
def fieldImm20 (w : Word) : BitVec 20 := field w 6 20
/-- `imm22 = w[27:6]` (R67). -/
def fieldImm22 (w : Word) : BitVec 22 := field w 6 22

/-- Opcode 1: bit 27 the version, bit 26 `A`, bit 25 `C` (R72). -/
def decodeAddSub (w : Word) : Instr :=
  match bitOf w 27, bitOf w 26, bitOf w 25 with
  | false, false, false => .sub (fieldRd w) (fieldR1 w) (fieldR2 w)
  | false, false, true => .subcc (fieldRd w) (fieldR1 w) (fieldR2 w)
  | false, true, false => .add (fieldRd w) (fieldR1 w) (fieldR2 w)
  | false, true, true => .addcc (fieldRd w) (fieldR1 w) (fieldR2 w)
  | true, false, false => .subi (fieldRd w) (fieldImm13 w) (fieldR2 w)
  | true, false, true => .subcci (fieldRd w) (fieldImm13 w) (fieldR2 w)
  | true, true, false => .addi (fieldRd w) (fieldImm13 w) (fieldR2 w)
  | true, true, true => .addcci (fieldRd w) (fieldImm13 w) (fieldR2 w)

/-- Opcode 2: bit 27 the version, bits 26:25 `T` (R72, R88). -/
def decodeLogic1 (w : Word) : Instr :=
  match bitOf w 27, bitOf w 26, bitOf w 25 with
  | false, false, false => .or (fieldRd w) (fieldR1 w) (fieldR2 w)
  | false, false, true => .and (fieldRd w) (fieldR1 w) (fieldR2 w)
  | false, true, false => .xor (fieldRd w) (fieldR1 w) (fieldR2 w)
  | false, true, true => .not (fieldRd w) (fieldR1 w) (fieldR2 w)
  | true, false, false => .ori (fieldRd w) (fieldImm13 w) (fieldR2 w)
  | true, false, true => .andi (fieldRd w) (fieldImm13 w) (fieldR2 w)
  | true, true, false => .xori (fieldRd w) (fieldImm13 w) (fieldR2 w)
  | true, true, true => .noti (fieldRd w) (fieldImm13 w) (fieldR2 w)

/-- Opcode 3 under `LOGIC2_MAP = literal`: T = 0, 2, 3 are NOR, NAND, leading zeros (R88, R89). -/
def decodeLogic2Literal (w : Word) : Except DecodeReject Instr :=
  match bitOf w 27, bitOf w 26, bitOf w 25 with
  | false, false, false => .ok (.nor (fieldRd w) (fieldR1 w) (fieldR2 w))
  | false, true, false => .ok (.nand (fieldRd w) (fieldR1 w) (fieldR2 w))
  | false, true, true => .ok (.lz (fieldRd w) (fieldR1 w) (fieldR2 w))
  | true, false, false => .ok (.nori (fieldRd w) (fieldImm13 w) (fieldR2 w))
  | true, true, false => .ok (.nandi (fieldRd w) (fieldImm13 w) (fieldR2 w))
  | true, true, true => .ok (.lzi (fieldRd w) (fieldImm13 w) (fieldR2 w))
  | _, false, true => .error (.reservedEncoding w)

/-- Opcode 3 under `LOGIC2_MAP = shifted`: T = 0 to 3 are NOR, NAND, leading zeros, population
count (R89, R92). -/
def decodeLogic2Shifted (w : Word) : Instr :=
  match bitOf w 27, bitOf w 26, bitOf w 25 with
  | false, false, false => .nor (fieldRd w) (fieldR1 w) (fieldR2 w)
  | false, false, true => .nand (fieldRd w) (fieldR1 w) (fieldR2 w)
  | false, true, false => .lz (fieldRd w) (fieldR1 w) (fieldR2 w)
  | false, true, true => .pop (fieldRd w) (fieldR1 w) (fieldR2 w)
  | true, false, false => .nori (fieldRd w) (fieldImm13 w) (fieldR2 w)
  | true, false, true => .nandi (fieldRd w) (fieldImm13 w) (fieldR2 w)
  | true, true, false => .lzi (fieldRd w) (fieldImm13 w) (fieldR2 w)
  | true, true, true => .popi (fieldRd w) (fieldImm13 w) (fieldR2 w)

/-- Opcode 3 under `LOGIC2_MAP = strict`: only T = 0, NOR (R89). -/
def decodeLogic2Strict (w : Word) : Except DecodeReject Instr :=
  match bitOf w 27, bitOf w 26, bitOf w 25 with
  | false, false, false => .ok (.nor (fieldRd w) (fieldR1 w) (fieldR2 w))
  | true, false, false => .ok (.nori (fieldRd w) (fieldImm13 w) (fieldR2 w))
  | _, false, true => .error (.reservedEncoding w)
  | _, true, _ => .error (.reservedEncoding w)

/-- Opcode 3 (R72, R88, R89). -/
def decodeLogic2 (m : Logic2Map) (w : Word) : Except DecodeReject Instr :=
  match m with
  | .literal => decodeLogic2Literal w
  | .shifted => .ok (decodeLogic2Shifted w)
  | .strict => decodeLogic2Strict w

/-- Opcode 4: bit 27 the version, bit 26 `E`, bit 25 `R` (R72). -/
def decodeShift (w : Word) : Instr :=
  match bitOf w 27, bitOf w 26, bitOf w 25 with
  | false, false, false => .shl (fieldRd w) (fieldR1 w) (fieldR2 w)
  | false, false, true => .shr (fieldRd w) (fieldR1 w) (fieldR2 w)
  | false, true, false => .shlx (fieldRd w) (fieldR1 w) (fieldR2 w)
  | false, true, true => .shrx (fieldRd w) (fieldR1 w) (fieldR2 w)
  | true, false, false => .shli (fieldRd w) (fieldImm13 w) (fieldR2 w)
  | true, false, true => .shri (fieldRd w) (fieldImm13 w) (fieldR2 w)
  | true, true, false => .shlxi (fieldRd w) (fieldImm13 w) (fieldR2 w)
  | true, true, true => .shrxi (fieldRd w) (fieldImm13 w) (fieldR2 w)

/-- Opcode 5: bit 27 the version, bit 25 `R`; bit 26 is ignored (R68, R72). -/
def decodeRotate (w : Word) : Instr :=
  match bitOf w 27, bitOf w 25 with
  | false, false => .rol (fieldRd w) (fieldR1 w) (fieldR2 w)
  | false, true => .ror (fieldRd w) (fieldR1 w) (fieldR2 w)
  | true, false => .roli (fieldRd w) (fieldImm13 w) (fieldR2 w)
  | true, true => .rori (fieldRd w) (fieldImm13 w) (fieldR2 w)

/-- Opcode 6: bits 27:26 = 00 `ld`, 01 `st`, 11 `sti`, 10 reserved (R72, R123). The address register is in
bits 11:6 of a read and in bits 5:0 of a write (R122). -/
def decodeMemory (w : Word) : Except DecodeReject Instr :=
  match bitOf w 27, bitOf w 26 with
  | false, false => .ok (.ld (fieldRd w) (fieldR2 w))
  | false, true => .ok (.st (fieldR2 w) (fieldRd w))
  | true, true => .ok (.sti (fieldImm20 w) (fieldRd w))
  | true, false => .error (.reservedEncoding w)

/-- Opcode 7: bit 27 `A`, "Advance" (R60, R72). -/
def decodeWindow (w : Word) : Instr :=
  match bitOf w 27 with
  | false => .wdec (fieldR2 w) (fieldRd w)
  | true => .winc (fieldR2 w) (fieldRd w)

/-- Opcode 8: bit 27 the version, bit 26 `R`; `r1` is in bits 11:6 (R58, R59, R72). -/
def decodeLinkJump (w : Word) : Instr :=
  match bitOf w 27, bitOf w 26 with
  | false, false => .jl (fieldRd w) (fieldR2 w)
  | false, true => .jlr (fieldRd w) (fieldR2 w)
  | true, false => .jli (fieldRd w) (fieldImm20 w)
  | true, true => .jlri (fieldRd w) (fieldImm20 w)

/-- Opcode 9: bit 27 the version (1 for the immediate one: R62, `90_conflicts.md` C3), bit 26 `R`, bit 25
`A`; a `type` of 32 or more is refused (R61, R62, R72). -/
def decodeCondJump (w : Word) : Except DecodeReject Instr :=
  if iccBitOk (fieldR2 w) then
    match bitOf w 27, bitOf w 26, bitOf w 25 with
    | false, false, false => .ok (.jc (fieldRd w) (fieldR2 w) (fieldR1 w))
    | false, false, true => .ok (.jcA (fieldRd w) (fieldR2 w) (fieldR1 w))
    | false, true, false => .ok (.jcr (fieldRd w) (fieldR2 w) (fieldR1 w))
    | false, true, true => .ok (.jcrA (fieldRd w) (fieldR2 w) (fieldR1 w))
    | true, false, false => .ok (.jci (fieldRd w) (fieldR2 w) (fieldImm13 w))
    | true, false, true => .ok (.jciA (fieldRd w) (fieldR2 w) (fieldImm13 w))
    | true, true, false => .ok (.jcri (fieldRd w) (fieldR2 w) (fieldImm13 w))
    | true, true, true => .ok (.jcriA (fieldRd w) (fieldR2 w) (fieldImm13 w))
  else .error (.iccBit (fieldR2 w))

/-- The instruction a word stands for, under a setting of `LOGIC2_MAP` (R72). Total: a word that is no
instruction is rejected by name. Unused bits are ignored (R68). -/
def decode (m : Logic2Map) (w : Word) : Except DecodeReject Instr :=
  match (fieldOp w).toNat with
  | 0x0 => if w = 0 then .ok .nop else .error (.reservedEncoding w)
  | 0x1 => .ok (decodeAddSub w)
  | 0x2 => .ok (decodeLogic1 w)
  | 0x3 => decodeLogic2 m w
  | 0x4 => .ok (decodeShift w)
  | 0x5 => .ok (decodeRotate w)
  | 0x6 => decodeMemory w
  | 0x7 => .ok (decodeWindow w)
  | 0x8 => .ok (decodeLinkJump w)
  | 0x9 => decodeCondJump w
  | 0xA => .ok (.li (fieldRd w) (fieldImm22 w))
  | 0xF => .ok .halt
  -- B, C, D, E, the only other values a 4-bit field has (R69)
  | _ => .error (.illegalInstruction w)

/-- The instruction at the head of a list of bytes, lowest address first, and the bytes after it
(R51, R52). -/
def decodeBytes (o : ByteOrder) (m : Logic2Map) : List Byte → Except DecodeReject (Instr × List Byte)
  | b0 :: b1 :: b2 :: b3 :: rest =>
    match decode m (wordOfBytes o b0 b1 b2 b3) with
    | .ok i => .ok (i, rest)
    | .error r => .error r
  | _ => .error .truncated

/-- The instruction that the decoder, at the default parameters, reads from the word whose bits are `w`:
laid out as bytes and decoded. Bits above `nbits` are 0. -/
def decodeTableWord (nbits w : Nat) : Option Instr :=
  let word : Word := BitVec.ofNat 32 (w % 2 ^ nbits)
  match decodeBytes Config.default.byteOrder Config.default.logic2Map
      (bytesOfWord Config.default.byteOrder word) with
  | .ok (i, _) => some i
  | .error _ => none

/-! ### Encoding -/

/-- Format RRR, and CJR with `type` in the place of `r2` (R56, R61); unused bits 0 (R68). -/
def packRRR (op : BitVec 4) (m1 m0 : Bool) (rd r1 r2 : RegAddr) : Word :=
  op ++ BitVec.ofBool false ++ BitVec.ofBool m1 ++ BitVec.ofBool m0 ++ 0#7 ++ r1 ++ r2 ++ rd

/-- Format I13, and CJI with `type` in the place of `r2` (R57, R62). -/
def packI13 (op : BitVec 4) (m1 m0 : Bool) (rd : RegAddr) (imm13 : BitVec 13) (r2 : RegAddr) : Word :=
  op ++ BitVec.ofBool true ++ BitVec.ofBool m1 ++ BitVec.ofBool m0 ++ imm13 ++ r2 ++ rd

/-- Format M2 (R58). -/
def packM2 (op : BitVec 4) (m : Bool) (ra rb : RegAddr) : Word :=
  op ++ BitVec.ofBool false ++ BitVec.ofBool m ++ 0#14 ++ ra ++ rb

/-- Format I20 (R59). -/
def packI20 (op : BitVec 4) (m : Bool) (imm20 : BitVec 20) (rb : RegAddr) : Word :=
  op ++ BitVec.ofBool true ++ BitVec.ofBool m ++ imm20 ++ rb

/-- Format W (R60). -/
def packW (adv : Bool) (dprev dcur : RegAddr) : Word :=
  0x7#4 ++ BitVec.ofBool adv ++ 0#15 ++ dprev ++ dcur

/-- Format LI (R63). -/
def packLI (imm22 : BitVec 22) (rd : RegAddr) : Word := 0xA#4 ++ imm22 ++ rd

/-- The word of a well-formed instruction, every unused bit 0 (R68, R72). The map decides which T selects
NAND and leading zeros; an instruction that `wellFormed m` refuses has no word of its own, and what this
gives for it is not an encoding. -/
def encode (m : Logic2Map) : Instr → Word
  | .nop => 0
  | .sub rd r1 r2 => packRRR 0x1 false false rd r1 r2
  | .subcc rd r1 r2 => packRRR 0x1 false true rd r1 r2
  | .add rd r1 r2 => packRRR 0x1 true false rd r1 r2
  | .addcc rd r1 r2 => packRRR 0x1 true true rd r1 r2
  | .subi rd imm r2 => packI13 0x1 false false rd imm r2
  | .subcci rd imm r2 => packI13 0x1 false true rd imm r2
  | .addi rd imm r2 => packI13 0x1 true false rd imm r2
  | .addcci rd imm r2 => packI13 0x1 true true rd imm r2
  | .or rd r1 r2 => packRRR 0x2 false false rd r1 r2
  | .and rd r1 r2 => packRRR 0x2 false true rd r1 r2
  | .xor rd r1 r2 => packRRR 0x2 true false rd r1 r2
  | .not rd r1 r2 => packRRR 0x2 true true rd r1 r2
  | .ori rd imm r2 => packI13 0x2 false false rd imm r2
  | .andi rd imm r2 => packI13 0x2 false true rd imm r2
  | .xori rd imm r2 => packI13 0x2 true false rd imm r2
  | .noti rd imm r2 => packI13 0x2 true true rd imm r2
  | .nor rd r1 r2 => packRRR 0x3 false false rd r1 r2
  | .nand rd r1 r2 => packRRR 0x3 (m != .shifted) (m == .shifted) rd r1 r2
  | .lz rd r1 r2 => packRRR 0x3 true (m != .shifted) rd r1 r2
  | .pop rd r1 r2 => packRRR 0x3 true true rd r1 r2
  | .nori rd imm r2 => packI13 0x3 false false rd imm r2
  | .nandi rd imm r2 => packI13 0x3 (m != .shifted) (m == .shifted) rd imm r2
  | .lzi rd imm r2 => packI13 0x3 true (m != .shifted) rd imm r2
  | .popi rd imm r2 => packI13 0x3 true true rd imm r2
  | .shl rd r1 r2 => packRRR 0x4 false false rd r1 r2
  | .shr rd r1 r2 => packRRR 0x4 false true rd r1 r2
  | .shlx rd r1 r2 => packRRR 0x4 true false rd r1 r2
  | .shrx rd r1 r2 => packRRR 0x4 true true rd r1 r2
  | .shli rd imm r2 => packI13 0x4 false false rd imm r2
  | .shri rd imm r2 => packI13 0x4 false true rd imm r2
  | .shlxi rd imm r2 => packI13 0x4 true false rd imm r2
  | .shrxi rd imm r2 => packI13 0x4 true true rd imm r2
  | .rol rd r1 r2 => packRRR 0x5 false false rd r1 r2
  | .ror rd r1 r2 => packRRR 0x5 false true rd r1 r2
  | .roli rd imm r2 => packI13 0x5 false false rd imm r2
  | .rori rd imm r2 => packI13 0x5 false true rd imm r2
  | .ld rd rt => packM2 0x6 false rt rd
  | .st rv rt => packM2 0x6 true rv rt
  | .sti imm rt => packI20 0x6 true imm rt
  | .wdec dprev dcur => packW false dprev dcur
  | .winc dprev dcur => packW true dprev dcur
  | .jl rd r1 => packM2 0x8 false r1 rd
  | .jlr rd r1 => packM2 0x8 true r1 rd
  | .jli rd imm => packI20 0x8 false imm rd
  | .jlri rd imm => packI20 0x8 true imm rd
  | .jc rd type r1 => packRRR 0x9 false false rd r1 type
  | .jcA rd type r1 => packRRR 0x9 false true rd r1 type
  | .jcr rd type r1 => packRRR 0x9 true false rd r1 type
  | .jcrA rd type r1 => packRRR 0x9 true true rd r1 type
  | .jci rd type imm => packI13 0x9 false false rd imm type
  | .jciA rd type imm => packI13 0x9 false true rd imm type
  | .jcri rd type imm => packI13 0x9 true false rd imm type
  | .jcriA rd type imm => packI13 0x9 true true rd imm type
  | .li rd imm => packLI imm rd
  | .halt => 0xF0000000

/-- The bits of a word that the decoder looks at, per form: every bit but the unused ones (R55 to R64, R68).
-/
def usedMask : Instr → Word
  | .nop => 0xFFFFFFFF
  | .sub .. | .subcc .. | .add .. | .addcc .. => 0xFE03FFFF
  | .or .. | .and .. | .xor .. | .not .. => 0xFE03FFFF
  | .nor .. | .nand .. | .lz .. | .pop .. => 0xFE03FFFF
  | .shl .. | .shr .. | .shlx .. | .shrx .. => 0xFE03FFFF
  | .rol .. | .ror .. => 0xFA03FFFF
  | .subi .. | .subcci .. | .addi .. | .addcci .. => 0xFFFFFFFF
  | .ori .. | .andi .. | .xori .. | .noti .. => 0xFFFFFFFF
  | .nori .. | .nandi .. | .lzi .. | .popi .. => 0xFFFFFFFF
  | .shli .. | .shri .. | .shlxi .. | .shrxi .. => 0xFFFFFFFF
  | .roli .. | .rori .. => 0xFBFFFFFF
  | .ld .. | .st .. | .jl .. | .jlr .. => 0xFC000FFF
  | .sti .. | .jli .. | .jlri .. => 0xFFFFFFFF
  | .wdec .. | .winc .. => 0xF8000FFF
  | .jc .. | .jcA .. | .jcr .. | .jcrA .. => 0xFE03FFFF
  | .jci .. | .jciA .. | .jcri .. | .jcriA .. => 0xFFFFFFFF
  | .li .. => 0xFFFFFFFF
  | .halt => 0xF0000000

/-- One row of the opcode table: a word matches it when `w & mask = value` (R72). -/
structure OpcodeRow where
  mnemonic : String
  value : Word
  mask : Word
  deriving DecidableEq, Repr

/-- The match and mask of every row of the opcode table (R72). -/
def opcodeTable : List OpcodeRow :=
  [⟨"nop", 0x00000000, 0xFFFFFFFF⟩] ++
  [⟨"sub", 0x10000000, 0xFE000000⟩,
   ⟨"subcc", 0x12000000, 0xFE000000⟩,
   ⟨"add", 0x14000000, 0xFE000000⟩,
   ⟨"addcc", 0x16000000, 0xFE000000⟩,
   ⟨"subi", 0x18000000, 0xFE000000⟩,
   ⟨"subcci", 0x1A000000, 0xFE000000⟩,
   ⟨"addi", 0x1C000000, 0xFE000000⟩,
   ⟨"addcci", 0x1E000000, 0xFE000000⟩] ++
  [⟨"or", 0x20000000, 0xFE000000⟩,
   ⟨"and", 0x22000000, 0xFE000000⟩,
   ⟨"xor", 0x24000000, 0xFE000000⟩,
   ⟨"not", 0x26000000, 0xFE000000⟩,
   ⟨"ori", 0x28000000, 0xFE000000⟩,
   ⟨"andi", 0x2A000000, 0xFE000000⟩,
   ⟨"xori", 0x2C000000, 0xFE000000⟩,
   ⟨"noti", 0x2E000000, 0xFE000000⟩] ++
  [⟨"nor", 0x30000000, 0xFE000000⟩,
   ⟨"nand", 0x34000000, 0xFE000000⟩,
   ⟨"lz", 0x36000000, 0xFE000000⟩,
   ⟨"nori", 0x38000000, 0xFE000000⟩,
   ⟨"nandi", 0x3C000000, 0xFE000000⟩,
   ⟨"lzi", 0x3E000000, 0xFE000000⟩] ++
  [⟨"shl", 0x40000000, 0xFE000000⟩,
   ⟨"shr", 0x42000000, 0xFE000000⟩,
   ⟨"shlx", 0x44000000, 0xFE000000⟩,
   ⟨"shrx", 0x46000000, 0xFE000000⟩,
   ⟨"shli", 0x48000000, 0xFE000000⟩,
   ⟨"shri", 0x4A000000, 0xFE000000⟩,
   ⟨"shlxi", 0x4C000000, 0xFE000000⟩,
   ⟨"shrxi", 0x4E000000, 0xFE000000⟩] ++
  [⟨"rol", 0x50000000, 0xFA000000⟩,
   ⟨"ror", 0x52000000, 0xFA000000⟩,
   ⟨"roli", 0x58000000, 0xFA000000⟩,
   ⟨"rori", 0x5A000000, 0xFA000000⟩] ++
  [⟨"ld", 0x60000000, 0xFC000000⟩,
   ⟨"st", 0x64000000, 0xFC000000⟩,
   ⟨"sti", 0x6C000000, 0xFC000000⟩] ++
  [⟨"wdec", 0x70000000, 0xF8000000⟩,
   ⟨"winc", 0x78000000, 0xF8000000⟩] ++
  [⟨"jl", 0x80000000, 0xFC000000⟩,
   ⟨"jlr", 0x84000000, 0xFC000000⟩,
   ⟨"jli", 0x88000000, 0xFC000000⟩,
   ⟨"jlri", 0x8C000000, 0xFC000000⟩] ++
  [⟨"jc", 0x90000000, 0xFE000000⟩,
   ⟨"jc.a", 0x92000000, 0xFE000000⟩,
   ⟨"jcr", 0x94000000, 0xFE000000⟩,
   ⟨"jcr.a", 0x96000000, 0xFE000000⟩,
   ⟨"jci", 0x98000000, 0xFE000000⟩,
   ⟨"jci.a", 0x9A000000, 0xFE000000⟩,
   ⟨"jcri", 0x9C000000, 0xFE000000⟩,
   ⟨"jcri.a", 0x9E000000, 0xFE000000⟩] ++
  [⟨"li", 0xA0000000, 0xF0000000⟩] ++
  [⟨"halt", 0xF0000000, 0xF0000000⟩]

/-- The mnemonic of the opcode-table row whose words a form has at the default `LOGIC2_MAP`; the population
count, which has none there (R92), is named as R89 calls its function. -/
def Instr.mnemonic : Instr → String
  | .nop => "nop"
  | .sub .. => "sub"
  | .subcc .. => "subcc"
  | .add .. => "add"
  | .addcc .. => "addcc"
  | .subi .. => "subi"
  | .subcci .. => "subcci"
  | .addi .. => "addi"
  | .addcci .. => "addcci"
  | .or .. => "or"
  | .and .. => "and"
  | .xor .. => "xor"
  | .not .. => "not"
  | .ori .. => "ori"
  | .andi .. => "andi"
  | .xori .. => "xori"
  | .noti .. => "noti"
  | .nor .. => "nor"
  | .nand .. => "nand"
  | .lz .. => "lz"
  | .pop .. => "pop"
  | .nori .. => "nori"
  | .nandi .. => "nandi"
  | .lzi .. => "lzi"
  | .popi .. => "popi"
  | .shl .. => "shl"
  | .shr .. => "shr"
  | .shlx .. => "shlx"
  | .shrx .. => "shrx"
  | .shli .. => "shli"
  | .shri .. => "shri"
  | .shlxi .. => "shlxi"
  | .shrxi .. => "shrxi"
  | .rol .. => "rol"
  | .ror .. => "ror"
  | .roli .. => "roli"
  | .rori .. => "rori"
  | .ld .. => "ld"
  | .st .. => "st"
  | .sti .. => "sti"
  | .wdec .. => "wdec"
  | .winc .. => "winc"
  | .jl .. => "jl"
  | .jlr .. => "jlr"
  | .jli .. => "jli"
  | .jlri .. => "jlri"
  | .jc .. => "jc"
  | .jcA .. => "jc.a"
  | .jcr .. => "jcr"
  | .jcrA .. => "jcr.a"
  | .jci .. => "jci"
  | .jciA .. => "jci.a"
  | .jcri .. => "jcri"
  | .jcriA .. => "jcri.a"
  | .li .. => "li"
  | .halt => "halt"

end Sys2Proof
end

