-- ==== Sys2Proof/Machine/State.lean ====
section
/-! DEFINITION. The machine's state (R9), the reasons a step can stop, and the state after reset (R33, R174). -/

namespace Sys2Proof.Machine

/-- Memory: the bytes that hold a value, by address. An unlisted byte holds none, and reading it faults
(R40, R156, log 2). -/
abbrev Memory := List Host.Cell

/-- Every address of the list is above `lo` and the addresses strictly rise. -/
def Memory.risesAbove (lo : Nat) : Memory → Bool
  | [] => true
  | (a, _) :: rest => decide (lo < a) && Memory.risesAbove a rest

/-- The addresses strictly rise. -/
def Memory.rises : Memory → Bool
  | [] => true
  | (a, _) :: rest => Memory.risesAbove a rest

/-- The canonical form: addresses strictly rising and below 2^32 (R35). No entry can equal what an unlisted
address reads as, since that is no value. -/
def Memory.wf (m : Memory) : Bool := m.rises && m.all (fun c => decide (c.1 < 2 ^ 32))

/-- The reasons a step has no next state. All but `halted` are the model faults of R149: the hardware's
behaviour is not documented, so stopping is safe. -/
inductive Fault where
  /-- `$pc` is not a multiple of 4; raised by the step that would fetch (R150). Safe. -/
  | misalignedFetch (pc : Word)
  /-- `$pc` is aligned and outside `MEM_VALID`, an annulled step included (R151). Safe. -/
  | fetchAccessFault (pc : Word)
  /-- An opcode of B to E; raised at decode (R152). Safe. -/
  | illegalInstruction (w : Word)
  /-- A defined opcode whose other bits have no meaning; raised at decode (R153). Safe. -/
  | reservedEncoding (w : Word)
  /-- A Conditional Jump whose `type` is 32 or more; raised at decode (R154). Safe. -/
  | iccBitFault (type : BitVec 6)
  /-- A source field names an unreadable address or a destination field an unwritable one (R155). Safe. -/
  | registerFault (a : RegAddr)
  /-- A fetch or a load of a memory word of which some byte has no value (R156). Safe. -/
  | uninitialisedRead (addr : Word)
  /-- `wdec` or `winc` with the same non-constant address in both fields (R157). Safe. -/
  | windowDestFault (a : RegAddr)
  /-- A shift count of 32 or more under `SHIFT_COUNT = refuse` (R158). Safe. -/
  | shiftCountFault (n : Word)
  /-- A load or store at an address that is not a multiple of 4 (R159). Safe. -/
  | misalignedData (addr : Word)
  /-- A load or store at an aligned address outside `MEM_VALID` (R160). Safe. -/
  | dataAccessFault (addr : Word)
  /-- The core is halted and takes no step (R25 step 1, R146). Raised by `step` alone: the final state of a
  run, not a model fault (R183, log 6). Safe. -/
  | halted
  deriving DecidableEq, Repr

/-- The refusals of the model. -/
inductive Refusal where
  /-- An instruction whose meaning is not written. Raised by an arm of `exec` only. Safe. -/
  | notModelled (mnemonic : String)
  deriving DecidableEq, Repr

/-- The complete state of the core (R9), with the parameters of the run beside it (R10, log 3). -/
structure State where
  /-- The parameters of R5. Not the spec's state: no step changes them (R10, log 3). -/
  cfg : Config
  /-- `G[k]` at index k, k below 8 (R13). -/
  globals : List Word
  /-- `I[w][k]` at index 8w + k under `WINDOW_OVERLAP = disjoint`; empty under `overlap` (R9, R15). -/
  inputs : List Word
  /-- `L[w][k]` at index 16w + k, k below 16 (R9, R15). -/
  locals : List Word
  /-- `O[w][k]` at index 8w + k, k below 8 (R9, R15). -/
  outputs : List Word
  /-- The register window index (R16). -/
  cwp : Nat
  /-- `$icc` (R20). -/
  icc : Word
  /-- `$pc` (R23). -/
  pc : Word
  /-- `$npc` (R24). -/
  npc : Word
  /-- `$psr`, opaque (R27). -/
  psr : Word
  /-- Makes the next step a no-op (R31). -/
  annul : Bool
  /-- Set by Halt; a halted core takes no step (R32). -/
  halted : Bool
  /-- `Mem` (R9, R36). -/
  mem : Memory
  deriving DecidableEq, Repr

/-- The outcome of a step or of an instruction. -/
abbrev Result := Host.Outcome State Fault Refusal

/-- The value of the registers whose reset value R33 leaves unspecified: the general registers, `$icc` and
`$psr`. Not 0, which R156 forbids a model to supply (DESIGN CHOICE, unsafe, log 1). -/
def unspecifiedWord : Word := 0xA5A5A5A4

/-- How many words of input registers a setting stores on their own (R9). -/
def inputWords (c : Config) : Nat :=
  match c.windowOverlap with
  | .overlap => 0
  | .disjoint => 8 * c.nwindows

/-- The state after reset for given parameters and for the memory the host loaded (R33, R174, R175). -/
def State.resetWith (c : Config) (m : Memory) : State where
  cfg := c
  globals := List.replicate 8 unspecifiedWord
  inputs := List.replicate (inputWords c) unspecifiedWord
  locals := List.replicate (16 * c.nwindows) unspecifiedWord
  outputs := List.replicate (8 * c.nwindows) unspecifiedWord
  cwp := c.resetCwp
  icc := unspecifiedWord
  pc := c.resetPc
  npc := c.resetPc + 4
  psr := unspecifiedWord
  annul := false
  halted := false
  mem := m

/-- The state after reset at the default parameters with nothing loaded (R33). How a program comes to run is
log 7. -/
def State.reset : State := State.resetWith Config.default []

end Sys2Proof.Machine
end

