-- ==== Sys2Proof/Machine/Ops.lean ====
section
/-! DEFINITION. The named operations over faults, memory, registers and the program counters. Each takes what follows
as its last argument, so that a check that fails leaves nothing written (R162). -/

namespace Sys2Proof.Machine

/-! ### Model faults -/

/-- `raise F(info)`: the step ends with no next state. There is no trap entry (nothing is saved, no mode
changes, control goes nowhere: R164) and no return from one (R165); this is what R149 puts in its place. -/
def raise (f : Fault) : Result := .fault f

/-- The model fault of a word that is no instruction (R152, R153, R154). `truncated` cannot come of a whole
word; it is mapped to the reserved encoding of the word. -/
def decodeFault (w : Word) : DecodeReject → Fault
  | .truncated => .reservedEncoding w
  | .illegalInstruction v => .illegalInstruction v
  | .reservedEncoding v => .reservedEncoding v
  | .iccBit type => .iccBitFault type

/-! ### Memory -/

/-- The byte at an address, none where nothing has written it. -/
def Memory.readByte (m : Memory) (a : Nat) : Option Byte :=
  match m with
  | [] => none
  | (a', b) :: rest => if a = a' then some b else Memory.readByte rest a

/-- Store a byte, keeping the addresses rising. -/
def Memory.writeByte (m : Memory) (a : Nat) (b : Byte) : Memory :=
  match m with
  | [] => [(a, b)]
  | (a', b') :: rest =>
    if a < a' then (a, b) :: (a', b') :: rest
    else if a = a' then (a, b) :: rest
    else (a', b') :: Memory.writeByte rest a b

/-- The word whose lowest byte is at `a`; none unless all four bytes hold a value (R40, R42, log 8). -/
def Memory.readWord (m : Memory) (o : ByteOrder) (a : Nat) : Option Word :=
  match m.readByte a, m.readByte (a + 1), m.readByte (a + 2), m.readByte (a + 3) with
  | some b0, some b1, some b2, some b3 => some (wordOfBytes o b0 b1 b2 b3)
  | _, _, _, _ => none

/-- Store a word at the four bytes from `a` on (R41, R42). -/
def Memory.writeWord (m : Memory) (o : ByteOrder) (a : Nat) (v : Word) : Memory :=
  (((m.writeByte a (byteOfWord o v 0)).writeByte (a + 1) (byteOfWord o v 1)).writeByte
    (a + 2) (byteOfWord o v 2)).writeByte (a + 3) (byteOfWord o v 3)

/-- `addr[1:0] = 0` (R40, R43, R44). -/
def aligned (addr : Word) : Bool := addr.toNat % 4 == 0

/-- The four bytes from `a` on lie in one region of `MEM_VALID` (R36). -/
def validAt (regions : List Region) (a : Nat) : Bool :=
  regions.any (fun r => decide (r.base ≤ a) && decide (a + 4 ≤ r.base + r.size))

/-- `addr` is in `MEM_VALID` (R36). -/
def State.memValid (s : State) (addr : Word) : Bool := validAt s.cfg.memValid addr.toNat

/-- `v <- MemRead(addr, 4)` (R40), then `k v`. -/
def memRead (addr : Word) (s : State) (k : Word → Result) : Result :=
  if aligned addr then
    if s.memValid addr then
      match s.mem.readWord s.cfg.byteOrder addr.toNat with
      | some v => k v
      | none => raise (.uninitialisedRead addr)
    else raise (.dataAccessFault addr)
  else raise (.misalignedData addr)

/-- The state with the word `v` at `addr`. -/
def State.storeWord (s : State) (addr v : Word) : State :=
  { s with mem := s.mem.writeWord s.cfg.byteOrder addr.toNat v }

/-- `MemWrite(addr, 4, v)` (R41), then `k` on the state after it. -/
def memWrite (addr v : Word) (s : State) (k : State → Result) : Result :=
  if aligned addr then
    if s.memValid addr then k (s.storeWord addr v)
    else raise (.dataAccessFault addr)
  else raise (.misalignedData addr)

/-! ### Registers -/

/-- What a register address names (R11). -/
inductive Loc where
  /-- `G[k]` -/
  | global (k : Nat)
  /-- `I[w][k]`, stored on its own -/
  | input (w k : Nat)
  /-- `L[w][k]` -/
  | localReg (w k : Nat)
  /-- `O[w][k]` -/
  | output (w k : Nat)
  | icc
  | pc
  | npc
  /-- `$c0` and `$c1` -/
  | constant (v : Word)
  /-- 28 to 30, 2D, 32 to 3A and 3D: no storage a register field reaches (R17, R18, R27) -/
  | absent
  deriving DecidableEq, Repr

/-- The input registers of window `w`: their own storage, or the outputs of the window below (R15). -/
def locateInput (c : Config) (w k : Nat) : Loc :=
  match c.windowOverlap with
  | .overlap => .output ((w + c.nwindows - 1) % c.nwindows) k
  | .disjoint => .input w k

/-- What address `a` names in window `w` (R11, R13, R15, R19). -/
def locate (c : Config) (w : Nat) (a : RegAddr) : Loc :=
  let n := a.toNat
  if n < 0x08 then .global n
  else if n < 0x10 then locateInput c w (n - 0x08)
  else if n < 0x18 then .localReg w (n - 0x10)
  else if n < 0x20 then .output w (n - 0x18)
  else if n < 0x28 then .localReg w (8 + (n - 0x20))
  else if n = 0x31 then .icc
  else if n = 0x3B then .pc
  else if n = 0x3C then .npc
  else if n = 0x3E then .constant 0x00000000
  else if n = 0x3F then .constant 0xFFFFFFFF
  else .absent

/-- The value a location holds. An index outside the bank, which no well-formed state has, and `absent`, which
no checked read reaches, give the reset word (log 12). -/
def State.readLoc (s : State) : Loc → Word
  | .global k => s.globals.getD k unspecifiedWord
  | .input w k => s.inputs.getD (8 * w + k) unspecifiedWord
  | .localReg w k => s.locals.getD (16 * w + k) unspecifiedWord
  | .output w k => s.outputs.getD (8 * w + k) unspecifiedWord
  | .icc => s.icc
  | .pc => s.pc
  | .npc => s.npc
  | .constant v => v
  | .absent => unspecifiedWord

/-- Store in a general register; every other location is left as it is (R19, R29). -/
def State.writeLoc (s : State) (l : Loc) (v : Word) : State :=
  match l with
  | .global k => { s with globals := s.globals.set k v }
  | .input w k => { s with inputs := s.inputs.set (8 * w + k) v }
  | .localReg w k => { s with locals := s.locals.set (16 * w + k) v }
  | .output w k => { s with outputs := s.outputs.set (8 * w + k) v }
  | .icc | .pc | .npc | .constant _ | .absent => s

/-- The addresses that can be read: 00 to 27, 31, 3B, 3C, 3E, 3F (R28). -/
def readable (a : RegAddr) : Bool :=
  decide (a.toNat < 0x28) || a == 0x31#6 || a == 0x3B#6 || a == 0x3C#6 || a == 0x3E#6 || a == 0x3F#6

/-- The addresses that can be written: 00 to 27, and 3E, 3F where the value is discarded (R29). -/
def writable (a : RegAddr) : Bool :=
  decide (a.toNat < 0x28) || a == 0x3E#6 || a == 0x3F#6

/-- `$c0` and `$c1` (R19). -/
def isConstant (a : RegAddr) : Bool := a == 0x3E#6 || a == 0x3F#6

/-- The value of what address `a` names in window `w` (R11, R15). -/
def State.regIn (s : State) (w : Nat) (a : RegAddr) : Word := s.readLoc (locate s.cfg w a)

/-- The value at a readable address in the current window (R28). -/
def State.reg (s : State) (a : RegAddr) : Word := s.readLoc (locate s.cfg s.cwp a)

/-- The state with `v` at a writable address in the current window (R29). -/
def State.setReg (s : State) (a : RegAddr) (v : Word) : State :=
  s.writeLoc (locate s.cfg s.cwp a) v

/-- `v <- x[a]` (R28), then `k v`. -/
def readReg (a : RegAddr) (s : State) (k : Word → Result) : Result :=
  if readable a then k (s.reg a) else raise (.registerFault a)

/-- `wcheck(a)` (R29), then `k`. -/
def wcheck (a : RegAddr) (k : Result) : Result :=
  if writable a then k else raise (.registerFault a)

/-! ### The other registers and the program counters -/

/-- `icc <- v` (R21). -/
def State.setIcc (s : State) (v : Word) : State := { s with icc := v }

/-- `cwp <- w` (R127). -/
def State.setCwp (s : State) (w : Nat) : State := { s with cwp := w }

/-- The end of an instruction that does not jump: `pc <- npc; npc <- npc + 4` (R25 step 6, R26). -/
def State.advance (s : State) : State := { s with pc := s.npc, npc := s.npc + 4 }

/-- `jump(target, a)`: `pc <- npc; npc <- target; annul <- a` (R25 step 6). -/
def State.jump (s : State) (target : Word) (a : Bool) : State :=
  { s with pc := s.npc, npc := target, annul := a }

/-- Halt: `halted <- 1`, `pc` and `npc` kept (R25 step 6, R146). -/
def State.halt (s : State) : State := { s with halted := true }

/-- The step in place of an annulled instruction: `annul <- 0; pc <- npc; npc <- npc + 4` (R25 step 4). -/
def State.skipAnnulled (s : State) : State :=
  { s with annul := false, pc := s.npc, npc := s.npc + 4 }

/-! ### Fetch -/

/-- The checks on `pc` that precede every step (R25 steps 2 and 3, R161 items 1 and 2), then `k`. -/
def fetchCheck (s : State) (k : Result) : Result :=
  if aligned s.pc then
    if s.memValid s.pc then k else raise (.fetchAccessFault s.pc)
  else raise (.misalignedFetch s.pc)

/-- The word at `pc` (R25 step 5, R52), if its four bytes hold values. -/
def State.fetchWord (s : State) : Option Word := s.mem.readWord s.cfg.byteOrder s.pc.toNat

/-- `w <- MemRead(pc, 4)` after `fetchCheck` (R25 step 5, R161 item 3), then `k w`. -/
def fetch (s : State) (k : Word → Result) : Result :=
  match s.fetchWord with
  | some w => k w
  | none => raise (.uninitialisedRead s.pc)

/-- Decode the fetched word (R25 step 5, R161 item 4), then `k` on the instruction. -/
def decodeThen (s : State) (w : Word) (k : Instr → Result) : Result :=
  match decode s.cfg.logic2Map w with
  | .ok i => k i
  | .error r => raise (decodeFault w r)

/-- `s` ready to fetch the word `v` at `pc`: the word in memory, nothing annulled, not halted (log 7). -/
def State.placeFetch (s : State) (v : Word) : State :=
  { s with annul := false, halted := false
           mem := s.mem.writeWord s.cfg.byteOrder s.pc.toNat v }

end Sys2Proof.Machine
end

