-- ==== Sys2Proof/Machine/Operands.lean ====
section
/-! DEFINITION. The operand forms: a register field or an immediate of 13, 20 or 22 bits (R65, R66, R67). -/

namespace Sys2Proof.Machine

/-- `ext(v)`: an immediate widened to 32 bits by `IMM_EXT` (R7, R67). -/
def widen (e : ImmExt) {n : Nat} (v : BitVec n) : Word :=
  match e with
  | .sign => v.signExtend 32
  | .zero => v.zeroExtend 32

/-- A source operand (R66). -/
inductive Source where
  | reg (a : RegAddr)
  | imm13 (v : BitVec 13)
  | imm20 (v : BitVec 20)
  | imm22 (v : BitVec 22)
  deriving DecidableEq, Repr

/-- The value of a source operand whose register, if it has one, is readable (R28, R67). -/
def State.source (s : State) : Source → Word
  | .reg a => s.reg a
  | .imm13 v => widen s.cfg.immExt v
  | .imm20 v => widen s.cfg.immExt v
  | .imm22 v => widen s.cfg.immExt v

/-- Whether a source operand can be read: an immediate always can. -/
def sourceReadable : Source → Bool
  | .reg a => readable a
  | .imm13 _ | .imm20 _ | .imm22 _ => true

/-- Read a source operand, then `k` on its value. Only a register can fault (R28). -/
def readSource (x : Source) (s : State) (k : Word → Result) : Result :=
  match x with
  | .reg a => readReg a s k
  | .imm13 v => k (widen s.cfg.immExt v)
  | .imm20 v => k (widen s.cfg.immExt v)
  | .imm22 v => k (widen s.cfg.immExt v)

/-- The three-operand frame that opcodes 1 to 5 share (R77, R90, R107): read the first operand, then the
register `r2`, then check the destination, then `k` on both values. -/
def threeOperand (x : Source) (r2 rd : RegAddr) (s : State) (k : Word → Word → Result) : Result :=
  readSource x s fun a => readReg r2 s fun b => wcheck rd (k a b)

/-- A three-operand instruction that writes `f a b` to `rd` and nothing else. -/
def compute (f : Word → Word → Word) (rd : RegAddr) (x : Source) (r2 : RegAddr) (s : State) : Result :=
  threeOperand x r2 rd s fun a b => .next (s.setReg rd (f a b)).advance

end Sys2Proof.Machine
end

