-- ==== Sys2Proof/Machine/Flags.lean ====
section
/-! DEFINITION. The computation of `$icc` (R22, R79, R127). -/

namespace Sys2Proof.Machine

/-- Carry of an addition: bit 32 of the 33-bit sum (R79). -/
def addCarry (a b : Word) : Bool := (a.zeroExtend 33 + b.zeroExtend 33).getLsbD 32

/-- Overflow of an addition (R79). -/
def addOverflow (a b : Word) : Bool := a.msb == b.msb && (a + b).msb != a.msb

/-- Carry of a subtraction, under `SUB_CARRY` (R79). -/
def subCarry (c : SubCarry) (a b : Word) : Bool :=
  match c with
  | .borrow => decide (a.toNat < b.toNat)
  | .notBorrow => !decide (a.toNat < b.toNat)

/-- Overflow of a subtraction (R79). -/
def subOverflow (a b : Word) : Bool := a.msb != b.msb && (a - b).msb != a.msb

/-- The default layout: Z, N, C, V in bits 0, 1, 2, 3 and the other bits 0 (R22). -/
def iccStandard (result : Word) (carry overflow : Bool) : Word :=
  0#28 ++ BitVec.ofBool overflow ++ BitVec.ofBool carry ++ BitVec.ofBool result.msb ++
    BitVec.ofBool (result == 0)

/-- `ICC_LAYOUT(result, carry, overflow)` (R22). -/
def iccLayout (l : IccLayout) (result : Word) (carry overflow : Bool) : Word :=
  match l with
  | .standard => iccStandard result carry overflow
  | .implementation => Config.implementationIcc result carry overflow

/-- The word an addition with C = 1 writes to `$icc` (R79). -/
def iccOfAdd (c : Config) (a b : Word) : Word :=
  iccLayout c.iccLayout (a + b) (addCarry a b) (addOverflow a b)

/-- The word a subtraction with C = 1 writes to `$icc` (R79). -/
def iccOfSub (c : Config) (a b : Word) : Word :=
  iccLayout c.iccLayout (a - b) (subCarry c.subCarry a b) (subOverflow a b)

/-- The word a window instruction writes to `$icc`: result the new index, carry 0, overflow `wrap` (R127). -/
def iccOfWindow (c : Config) (new : Nat) (wrap : Bool) : Word :=
  iccLayout c.iccLayout (BitVec.ofNat 32 new) false wrap

end Sys2Proof.Machine
end

