-- ==== Sys2Proof/Machine/AddSub.lean ====
section
/-! DEFINITION. Add/Subtract, opcode 1 (R77 to R87). -/

namespace Sys2Proof.Machine

/-- An Add/Subtract form with C = 1: `rd` takes the result and `$icc` is replaced (R79). -/
def computeCc (f : Word → Word → Word) (icc : Config → Word → Word → Word) (rd : RegAddr) (x : Source)
    (r2 : RegAddr) (s : State) : Result :=
  threeOperand x r2 rd s fun a b =>
    .next ((s.setReg rd (f a b)).setIcc (icc s.cfg a b)).advance

/-- `sub`: `r1` minus `r2` (R80). -/
def execSub (rd r1 r2 : RegAddr) (s : State) : Result :=
  compute (fun a b => a - b) rd (.reg r1) r2 s

/-- `subcc`: `r1` minus `r2`, and `$icc` replaced (R81). -/
def execSubcc (rd r1 r2 : RegAddr) (s : State) : Result :=
  computeCc (fun a b => a - b) iccOfSub rd (.reg r1) r2 s

/-- `add`: `r1` plus `r2` (R82). -/
def execAdd (rd r1 r2 : RegAddr) (s : State) : Result :=
  compute (fun a b => a + b) rd (.reg r1) r2 s

/-- `addcc`: `r1` plus `r2`, and `$icc` replaced (R83). -/
def execAddcc (rd r1 r2 : RegAddr) (s : State) : Result :=
  computeCc (fun a b => a + b) iccOfAdd rd (.reg r1) r2 s

/-- `subi`: `imm13` minus `r2` (R84). -/
def execSubi (rd : RegAddr) (imm13 : BitVec 13) (r2 : RegAddr) (s : State) : Result :=
  compute (fun a b => a - b) rd (.imm13 imm13) r2 s

/-- `subcci`: `imm13` minus `r2`, and `$icc` replaced (R85). -/
def execSubcci (rd : RegAddr) (imm13 : BitVec 13) (r2 : RegAddr) (s : State) : Result :=
  computeCc (fun a b => a - b) iccOfSub rd (.imm13 imm13) r2 s

/-- `addi`: `imm13` plus `r2` (R86). -/
def execAddi (rd : RegAddr) (imm13 : BitVec 13) (r2 : RegAddr) (s : State) : Result :=
  compute (fun a b => a + b) rd (.imm13 imm13) r2 s

/-- `addcci`: `imm13` plus `r2`, and `$icc` replaced (R87). -/
def execAddcci (rd : RegAddr) (imm13 : BitVec 13) (r2 : RegAddr) (s : State) : Result :=
  computeCc (fun a b => a + b) iccOfAdd rd (.imm13 imm13) r2 s

end Sys2Proof.Machine
end

