-- ==== Sys2Proof/Machine/LinkJump.lean ====
section
/-! DEFINITION. Link Jump, opcode 8 (R130 to R134). -/

namespace Sys2Proof.Machine

/-- The target of a jump: the operand, or `npc` plus the operand modulo 2^32 (R130, R136). -/
def jumpTarget (rel : Bool) (npc v : Word) : Word := if rel then npc + v else v

/-- All Link Jump forms: `rd` takes the link `npc + 4` and the jump, never annulling, is always taken
(R130). -/
def linkJump (rel : Bool) (rd : RegAddr) (x : Source) (s : State) : Result :=
  readSource x s fun v =>
    wcheck rd (.next ((s.setReg rd (s.npc + 4)).jump (jumpTarget rel s.npc v) false))

/-- `jl`: jump to the address in a register, and link (R131). -/
def execJl (rd r1 : RegAddr) (s : State) : Result := linkJump false rd (.reg r1) s

/-- `jlr`: jump relative to `$npc` by the offset in a register, and link (R132). -/
def execJlr (rd r1 : RegAddr) (s : State) : Result := linkJump true rd (.reg r1) s

/-- `jli`: jump to an immediate address, and link (R133). -/
def execJli (rd : RegAddr) (imm20 : BitVec 20) (s : State) : Result := linkJump false rd (.imm20 imm20) s

/-- `jlri`: jump relative to `$npc` by an immediate offset, and link (R134). -/
def execJlri (rd : RegAddr) (imm20 : BitVec 20) (s : State) : Result := linkJump true rd (.imm20 imm20) s

end Sys2Proof.Machine
end

