-- ==== Sys2Proof/Machine/CondJump.lean ====
section
/-! DEFINITION. Conditional Jump, opcode 9 (R135 to R144). -/

namespace Sys2Proof.Machine

/-- Whether a Conditional Jump is taken: the selected bit of `$icc` equals `JUMP_SENSE` (R135). -/
def jumpTaken (s : State) (type : BitVec 6) : Bool := s.icc.getLsbD type.toNat == s.cfg.jumpSense

/-- The link of a Conditional Jump: always when taken, by `LINK_NOT_TAKEN` when not (R136). -/
def condLink (taken : Bool) (rd : RegAddr) (s : State) : State :=
  if taken || s.cfg.linkNotTaken == .write then s.setReg rd (s.npc + 4) else s

/-- Where a Conditional Jump goes on, from the state `t` with the link written; `npc` is the value at the start
of the instruction, which the link does not touch (R136). -/
def condFlow (taken rel an : Bool) (v : Word) (t : State) : State :=
  if taken then t.jump (jumpTarget rel t.npc v) an
  else if an && t.cfg.annulNotTaken == .annul then t.jump (t.npc + 4) true
  else t.advance

/-- All Conditional Jump forms (R136); a `type` of 32 or more faults before any register is read
(R135). -/
def condJump (rel an : Bool) (rd : RegAddr) (type : BitVec 6) (x : Source) (s : State) : Result :=
  if iccBitOk type then
    readSource x s fun v =>
      wcheck rd
        (.next (condFlow (jumpTaken s type) rel an v (condLink (jumpTaken s type) rd s)))
  else raise (.iccBitFault type)

/-- `jc`: conditional jump to a register address; delay slot executed (R137). -/
def execJc (rd : RegAddr) (type : BitVec 6) (r1 : RegAddr) (s : State) : Result :=
  condJump false false rd type (.reg r1) s

/-- `jc.a`: conditional jump to a register address; delay slot annulled when taken (R138). -/
def execJcA (rd : RegAddr) (type : BitVec 6) (r1 : RegAddr) (s : State) : Result :=
  condJump false true rd type (.reg r1) s

/-- `jcr`: conditional jump relative to `$npc` by a register offset; delay slot executed (R139). -/
def execJcr (rd : RegAddr) (type : BitVec 6) (r1 : RegAddr) (s : State) : Result :=
  condJump true false rd type (.reg r1) s

/-- `jcr.a`: conditional jump relative to `$npc` by a register offset; delay slot annulled when taken (R140). -/
def execJcrA (rd : RegAddr) (type : BitVec 6) (r1 : RegAddr) (s : State) : Result :=
  condJump true true rd type (.reg r1) s

/-- `jci`: conditional jump to an immediate address; delay slot executed (R141). -/
def execJci (rd : RegAddr) (type : BitVec 6) (imm13 : BitVec 13) (s : State) : Result :=
  condJump false false rd type (.imm13 imm13) s

/-- `jci.a`: conditional jump to an immediate address; delay slot annulled when taken (R142). -/
def execJciA (rd : RegAddr) (type : BitVec 6) (imm13 : BitVec 13) (s : State) : Result :=
  condJump false true rd type (.imm13 imm13) s

/-- `jcri`: conditional jump relative to `$npc` by an immediate offset; delay slot executed (R143). -/
def execJcri (rd : RegAddr) (type : BitVec 6) (imm13 : BitVec 13) (s : State) : Result :=
  condJump true false rd type (.imm13 imm13) s

/-- `jcri.a`: conditional jump relative to `$npc` by an immediate offset; delay slot annulled when taken (R144). -/
def execJcriA (rd : RegAddr) (type : BitVec 6) (imm13 : BitVec 13) (s : State) : Result :=
  condJump true true rd type (.imm13 imm13) s

end Sys2Proof.Machine
end

