-- ==== Sys2Proof/Machine/HaltOp.lean ====
section
/-! DEFINITION. Halt, opcode F (R146). -/

namespace Sys2Proof.Machine

/-- `halt`: `halted <- 1` and nothing else changes (R146). -/
def execHalt (s : State) : Result := .next s.halt

end Sys2Proof.Machine
end

