-- ==== Sys2Proof/Machine/LoadImm.lean ====
section
/-! DEFINITION. Load Immediate, opcode A (R145). -/

namespace Sys2Proof.Machine

/-- `li`: load a 22-bit immediate, widened, into the low end of a register (R145). -/
def execLi (rd : RegAddr) (imm22 : BitVec 22) (s : State) : Result :=
  readSource (.imm22 imm22) s fun v => wcheck rd (.next (s.setReg rd v).advance)

end Sys2Proof.Machine
end

