-- ==== Sys2Proof/Machine/Logic.lean ====
section
/-! DEFINITION. Logic 1 and Logic 2, opcodes 2 and 3 (R88 to R106). -/

namespace Sys2Proof.Machine

/-- The operand of a one-operand logic function: Input 1 or Input 2, by `UNARY_SRC` (R91). -/
def unaryOperand (u : UnarySrc) (a b : Word) : Word :=
  match u with
  | .in1 => a
  | .in2 => b

/-- How many consecutive bits are 0 among bits n-1 down to 0, counted from bit n-1 downward. -/
def leadingZeros (v : Word) : Nat → Nat
  | 0 => 0
  | n + 1 => if v.getLsbD n then 0 else leadingZeros v n + 1

/-- How many of bits n-1 down to 0 are 1. -/
def onesBelow (v : Word) : Nat → Nat
  | 0 => 0
  | n + 1 => (if v.getLsbD n then 1 else 0) + onesBelow v n

/-- `clz(u)`: 0 to 32, with `clz(0) = 32` (R91). -/
def clz (u : Word) : Word := BitVec.ofNat 32 (leadingZeros u 32)

/-- `popcount(u)`: 0 to 32 (R91). -/
def popcount (u : Word) : Word := BitVec.ofNat 32 (onesBelow u 32)

/-- A one-operand logic function: both inputs are read and checked, one is used (R90, R91). -/
def computeUnary (f : Word → Word) (rd : RegAddr) (x : Source) (r2 : RegAddr) (s : State) : Result :=
  compute (fun a b => f (unaryOperand s.cfg.unarySrc a b)) rd x r2 s

/-- `or`: bitwise OR (R93). -/
def execOr (rd r1 r2 : RegAddr) (s : State) : Result :=
  compute (fun a b => a ||| b) rd (.reg r1) r2 s

/-- `and`: bitwise AND (R94). -/
def execAnd (rd r1 r2 : RegAddr) (s : State) : Result :=
  compute (fun a b => a &&& b) rd (.reg r1) r2 s

/-- `xor`: bitwise exclusive OR (R95). -/
def execXor (rd r1 r2 : RegAddr) (s : State) : Result :=
  compute (fun a b => a ^^^ b) rd (.reg r1) r2 s

/-- `not`: bitwise complement of one input (R96). -/
def execNot (rd r1 r2 : RegAddr) (s : State) : Result :=
  computeUnary (fun u => ~~~u) rd (.reg r1) r2 s

/-- `nor`: bitwise NOR (R101). -/
def execNor (rd r1 r2 : RegAddr) (s : State) : Result :=
  compute (fun a b => ~~~(a ||| b)) rd (.reg r1) r2 s

/-- `nand`: bitwise NAND (R102). -/
def execNand (rd r1 r2 : RegAddr) (s : State) : Result :=
  compute (fun a b => ~~~(a &&& b)) rd (.reg r1) r2 s

/-- `lz`: count leading zero bits (R103). -/
def execLz (rd r1 r2 : RegAddr) (s : State) : Result :=
  computeUnary clz rd (.reg r1) r2 s

/-- `pop`: population count, under `LOGIC2_MAP = shifted` (R92). -/
def execPop (rd r1 r2 : RegAddr) (s : State) : Result :=
  computeUnary popcount rd (.reg r1) r2 s

/-- `ori`: bitwise OR (immediate version) (R97). -/
def execOri (rd : RegAddr) (imm13 : BitVec 13) (r2 : RegAddr) (s : State) : Result :=
  compute (fun a b => a ||| b) rd (.imm13 imm13) r2 s

/-- `andi`: bitwise AND (immediate version) (R98). -/
def execAndi (rd : RegAddr) (imm13 : BitVec 13) (r2 : RegAddr) (s : State) : Result :=
  compute (fun a b => a &&& b) rd (.imm13 imm13) r2 s

/-- `xori`: bitwise exclusive OR (immediate version) (R99). -/
def execXori (rd : RegAddr) (imm13 : BitVec 13) (r2 : RegAddr) (s : State) : Result :=
  compute (fun a b => a ^^^ b) rd (.imm13 imm13) r2 s

/-- `noti`: bitwise complement of one input (immediate version) (R100). -/
def execNoti (rd : RegAddr) (imm13 : BitVec 13) (r2 : RegAddr) (s : State) : Result :=
  computeUnary (fun u => ~~~u) rd (.imm13 imm13) r2 s

/-- `nori`: bitwise NOR (immediate version) (R104). -/
def execNori (rd : RegAddr) (imm13 : BitVec 13) (r2 : RegAddr) (s : State) : Result :=
  compute (fun a b => ~~~(a ||| b)) rd (.imm13 imm13) r2 s

/-- `nandi`: bitwise NAND (immediate version) (R105). -/
def execNandi (rd : RegAddr) (imm13 : BitVec 13) (r2 : RegAddr) (s : State) : Result :=
  compute (fun a b => ~~~(a &&& b)) rd (.imm13 imm13) r2 s

/-- `lzi`: count leading zero bits (immediate version) (R106). -/
def execLzi (rd : RegAddr) (imm13 : BitVec 13) (r2 : RegAddr) (s : State) : Result :=
  computeUnary clz rd (.imm13 imm13) r2 s

/-- `popi`: population count, under `LOGIC2_MAP = shifted` (immediate version) (R92). -/
def execPopi (rd : RegAddr) (imm13 : BitVec 13) (r2 : RegAddr) (s : State) : Result :=
  computeUnary popcount rd (.imm13 imm13) r2 s

end Sys2Proof.Machine
end

