-- ==== Sys2Proof/Machine/MemoryAccess.lean ====
section
/-! DEFINITION. Memory Access, opcode 6 (R122 to R126). The address is the content of one register (R122). -/

namespace Sys2Proof.Machine

/-- A store: the value, then the address, are read before memory is checked (R125, R126, R161). -/
def store (x : Source) (rt : RegAddr) (s : State) : Result :=
  readSource x s fun v => readReg rt s fun addr => memWrite addr v s fun t => .next t.advance

/-- `ld`: load a word; `rd` is checked before the access (R124). -/
def execLd (rd rt : RegAddr) (s : State) : Result :=
  readReg rt s fun addr => wcheck rd (memRead addr s fun v => .next (s.setReg rd v).advance)

/-- `st`: store a register (R125). -/
def execSt (rv rt : RegAddr) (s : State) : Result := store (.reg rv) rt s

/-- `sti`: store an immediate, widened to a whole word (R126). -/
def execSti (imm20 : BitVec 20) (rt : RegAddr) (s : State) : Result := store (.imm20 imm20) rt s

end Sys2Proof.Machine
end

