-- ==== Sys2Proof/Machine/Noop.lean ====
section
/-! DEFINITION. No-op, opcode 0 (R76). -/

namespace Sys2Proof.Machine

/-- `nop`: nothing is read and nothing is written; `$pc` and `$npc` advance (R76). -/
def execNop (s : State) : Result := .next s.advance

end Sys2Proof.Machine
end

