-- ==== Sys2Proof/Machine/ShiftRotate.lean ====
section
/-! DEFINITION. Shift and Rotate, opcodes 4 and 5 (R107 to R121). -/

namespace Sys2Proof.Machine

/-- The bit every step of a shift brings in: 0 when E = 0, else the end bit that the new one copies, old bit
31 for a right shift and old bit 0 for a left one (R108). -/
def shiftFill (v : Word) (e right : Bool) : Bool := e && (if right then v.msb else v.getLsbD 0)

/-- One step of a shift: every bit moves one place and the new bit comes in (R108). -/
def shiftStep (e right : Bool) (v : Word) : Word :=
  if right then BitVec.ofBool (shiftFill v e right) ++ v.extractLsb' 1 31
  else v.extractLsb' 0 31 ++ BitVec.ofBool (shiftFill v e right)

/-- `shift(v, n, E, R)` in the closed form of R108. -/
def shiftBits (v : Word) (n : Nat) (e right : Bool) : Word :=
  let f := shiftFill v e right
  if n = 0 then v
  else if n ≤ 31 then
    if right then (v >>> n) ||| (if f then BitVec.ofNat 32 ((2 ^ n - 1) * 2 ^ (32 - n)) else 0)
    else (v <<< n) ||| (if f then BitVec.ofNat 32 (2 ^ n - 1) else 0)
  else if f then 0xFFFFFFFF else 0

/-- The count a shift uses for the register value `n`, or none where `SHIFT_COUNT = refuse` faults
(R107, R108). -/
def shiftCount (c : ShiftCount) (n : Word) : Option Nat :=
  match c with
  | .full => some n.toNat
  | .mod32 => some (n.toNat % 32)
  | .refuse => if n.toNat < 32 then some n.toNat else none

/-- A Shift form: the value is the first operand, the count the whole register `r2` (R107, R108). -/
def shift (e right : Bool) (rd : RegAddr) (x : Source) (r2 : RegAddr) (s : State) : Result :=
  threeOperand x r2 rd s fun v n =>
    match shiftCount s.cfg.shiftCount n with
    | some k => .next (s.setReg rd (shiftBits v k e right)).advance
    | none => raise (.shiftCountFault n)

/-- `rotl(v, n)` (R109). -/
def rotl (v : Word) (n : Nat) : Word :=
  let k := n % 32
  if k = 0 then v else (v <<< k) ||| (v >>> (32 - k))

/-- `rotr(v, n) = rotl(v, 32 - k)` with k = n mod 32 (R109). -/
def rotr (v : Word) (n : Nat) : Word := rotl v (32 - n % 32)

/-- `shl`: shift left, zero fill (R110). -/
def execShl (rd r1 r2 : RegAddr) (s : State) : Result :=
  shift false false rd (.reg r1) r2 s

/-- `shr`: shift right, zero fill (R111). -/
def execShr (rd r1 r2 : RegAddr) (s : State) : Result :=
  shift false true rd (.reg r1) r2 s

/-- `shlx`: shift left, filling with copies of old bit 0 (R112). -/
def execShlx (rd r1 r2 : RegAddr) (s : State) : Result :=
  shift true false rd (.reg r1) r2 s

/-- `shrx`: shift right, filling with copies of old bit 31 (R113). -/
def execShrx (rd r1 r2 : RegAddr) (s : State) : Result :=
  shift true true rd (.reg r1) r2 s

/-- `shli`: shift an immediate left, zero fill (R114). -/
def execShli (rd : RegAddr) (imm13 : BitVec 13) (r2 : RegAddr) (s : State) : Result :=
  shift false false rd (.imm13 imm13) r2 s

/-- `shri`: shift an immediate right, zero fill (R115). -/
def execShri (rd : RegAddr) (imm13 : BitVec 13) (r2 : RegAddr) (s : State) : Result :=
  shift false true rd (.imm13 imm13) r2 s

/-- `shlxi`: shift an immediate left, filling with copies of old bit 0 (R116). -/
def execShlxi (rd : RegAddr) (imm13 : BitVec 13) (r2 : RegAddr) (s : State) : Result :=
  shift true false rd (.imm13 imm13) r2 s

/-- `shrxi`: shift an immediate right, filling with copies of old bit 31 (R117). -/
def execShrxi (rd : RegAddr) (imm13 : BitVec 13) (r2 : RegAddr) (s : State) : Result :=
  shift true true rd (.imm13 imm13) r2 s

/-- `rol`: rotate left (R118). -/
def execRol (rd r1 r2 : RegAddr) (s : State) : Result :=
  compute (fun v n => rotl v n.toNat) rd (.reg r1) r2 s

/-- `ror`: rotate right (R119). -/
def execRor (rd r1 r2 : RegAddr) (s : State) : Result :=
  compute (fun v n => rotr v n.toNat) rd (.reg r1) r2 s

/-- `roli`: rotate an immediate left (R120). -/
def execRoli (rd : RegAddr) (imm13 : BitVec 13) (r2 : RegAddr) (s : State) : Result :=
  compute (fun v n => rotl v n.toNat) rd (.imm13 imm13) r2 s

/-- `rori`: rotate an immediate right (R121). -/
def execRori (rd : RegAddr) (imm13 : BitVec 13) (r2 : RegAddr) (s : State) : Result :=
  compute (fun v n => rotr v n.toNat) rd (.imm13 imm13) r2 s

end Sys2Proof.Machine
end

