-- ==== Sys2Proof/Machine/Window.lean ====
section
/-! DEFINITION. Register Window, opcode 7 (R127 to R129). -/

namespace Sys2Proof.Machine

/-- The window index after a move, modulo `NWINDOWS` (R127). -/
def windowNext (n old : Nat) (adv : Bool) : Nat :=
  if adv then (old + 1) % n else (old + n - 1) % n

/-- Whether the index wrapped (R127). -/
def windowWrap (n old : Nat) (adv : Bool) : Bool :=
  if adv then decide (old + 1 = n) else decide (old = 0)

/-- Both Register Window forms: the checks, then the index, then the two destinations, whose addresses are
resolved in the new window, then `$icc` (R127). -/
def windowMove (adv : Bool) (dprev dcur : RegAddr) (s : State) : Result :=
  let old := s.cwp
  let new := windowNext s.cfg.nwindows old adv
  wcheck dprev (wcheck dcur
    (if dprev = dcur && !isConstant dprev then raise (.windowDestFault dprev)
    else
      .next ((((s.setCwp new).setReg dprev (BitVec.ofNat 32 old)).setReg dcur
        (BitVec.ofNat 32 new)).setIcc
          (iccOfWindow s.cfg new (windowWrap s.cfg.nwindows old adv))).advance))

/-- `wdec`: reduce the register window index by 1 (R128). -/
def execWdec (dprev dcur : RegAddr) (s : State) : Result := windowMove false dprev dcur s

/-- `winc`: increase the register window index by 1 (R129). -/
def execWinc (dprev dcur : RegAddr) (s : State) : Result := windowMove true dprev dcur s

end Sys2Proof.Machine
end

