-- ==== Sys2Proof/Machine/Dispatch.lean ====
section
/-! DEFINITION. The meaning of every instruction, one arm per constructor. -/

namespace Sys2Proof.Machine

def exec (i : Instr) (s : State) : Host.Outcome State Fault Refusal :=
  match i with
  | .nop => Sys2Proof.Machine.execNop s
  | .sub rd r1 r2 => Sys2Proof.Machine.execSub rd r1 r2 s
  | .subcc rd r1 r2 => Sys2Proof.Machine.execSubcc rd r1 r2 s
  | .add rd r1 r2 => Sys2Proof.Machine.execAdd rd r1 r2 s
  | .addcc rd r1 r2 => Sys2Proof.Machine.execAddcc rd r1 r2 s
  | .subi rd imm13 r2 => Sys2Proof.Machine.execSubi rd imm13 r2 s
  | .subcci rd imm13 r2 => Sys2Proof.Machine.execSubcci rd imm13 r2 s
  | .addi rd imm13 r2 => Sys2Proof.Machine.execAddi rd imm13 r2 s
  | .addcci rd imm13 r2 => Sys2Proof.Machine.execAddcci rd imm13 r2 s
  | .or rd r1 r2 => Sys2Proof.Machine.execOr rd r1 r2 s
  | .and rd r1 r2 => Sys2Proof.Machine.execAnd rd r1 r2 s
  | .xor rd r1 r2 => Sys2Proof.Machine.execXor rd r1 r2 s
  | .not rd r1 r2 => Sys2Proof.Machine.execNot rd r1 r2 s
  | .ori rd imm13 r2 => Sys2Proof.Machine.execOri rd imm13 r2 s
  | .andi rd imm13 r2 => Sys2Proof.Machine.execAndi rd imm13 r2 s
  | .xori rd imm13 r2 => Sys2Proof.Machine.execXori rd imm13 r2 s
  | .noti rd imm13 r2 => Sys2Proof.Machine.execNoti rd imm13 r2 s
  | .nor rd r1 r2 => Sys2Proof.Machine.execNor rd r1 r2 s
  | .nand rd r1 r2 => Sys2Proof.Machine.execNand rd r1 r2 s
  | .lz rd r1 r2 => Sys2Proof.Machine.execLz rd r1 r2 s
  | .pop rd r1 r2 => Sys2Proof.Machine.execPop rd r1 r2 s
  | .nori rd imm13 r2 => Sys2Proof.Machine.execNori rd imm13 r2 s
  | .nandi rd imm13 r2 => Sys2Proof.Machine.execNandi rd imm13 r2 s
  | .lzi rd imm13 r2 => Sys2Proof.Machine.execLzi rd imm13 r2 s
  | .popi rd imm13 r2 => Sys2Proof.Machine.execPopi rd imm13 r2 s
  | .shl rd r1 r2 => Sys2Proof.Machine.execShl rd r1 r2 s
  | .shr rd r1 r2 => Sys2Proof.Machine.execShr rd r1 r2 s
  | .shlx rd r1 r2 => Sys2Proof.Machine.execShlx rd r1 r2 s
  | .shrx rd r1 r2 => Sys2Proof.Machine.execShrx rd r1 r2 s
  | .shli rd imm13 r2 => Sys2Proof.Machine.execShli rd imm13 r2 s
  | .shri rd imm13 r2 => Sys2Proof.Machine.execShri rd imm13 r2 s
  | .shlxi rd imm13 r2 => Sys2Proof.Machine.execShlxi rd imm13 r2 s
  | .shrxi rd imm13 r2 => Sys2Proof.Machine.execShrxi rd imm13 r2 s
  | .rol rd r1 r2 => Sys2Proof.Machine.execRol rd r1 r2 s
  | .ror rd r1 r2 => Sys2Proof.Machine.execRor rd r1 r2 s
  | .roli rd imm13 r2 => Sys2Proof.Machine.execRoli rd imm13 r2 s
  | .rori rd imm13 r2 => Sys2Proof.Machine.execRori rd imm13 r2 s
  | .ld rd rt => Sys2Proof.Machine.execLd rd rt s
  | .st rv rt => Sys2Proof.Machine.execSt rv rt s
  | .sti imm20 rt => Sys2Proof.Machine.execSti imm20 rt s
  | .wdec dprev dcur => Sys2Proof.Machine.execWdec dprev dcur s
  | .winc dprev dcur => Sys2Proof.Machine.execWinc dprev dcur s
  | .jl rd r1 => Sys2Proof.Machine.execJl rd r1 s
  | .jlr rd r1 => Sys2Proof.Machine.execJlr rd r1 s
  | .jli rd imm20 => Sys2Proof.Machine.execJli rd imm20 s
  | .jlri rd imm20 => Sys2Proof.Machine.execJlri rd imm20 s
  | .jc rd type r1 => Sys2Proof.Machine.execJc rd type r1 s
  | .jcA rd type r1 => Sys2Proof.Machine.execJcA rd type r1 s
  | .jcr rd type r1 => Sys2Proof.Machine.execJcr rd type r1 s
  | .jcrA rd type r1 => Sys2Proof.Machine.execJcrA rd type r1 s
  | .jci rd type imm13 => Sys2Proof.Machine.execJci rd type imm13 s
  | .jciA rd type imm13 => Sys2Proof.Machine.execJciA rd type imm13 s
  | .jcri rd type imm13 => Sys2Proof.Machine.execJcri rd type imm13 s
  | .jcriA rd type imm13 => Sys2Proof.Machine.execJcriA rd type imm13 s
  | .li rd imm22 => Sys2Proof.Machine.execLi rd imm22 s
  | .halt => Sys2Proof.Machine.execHalt s

end Sys2Proof.Machine
end

