-- ==== Sys2Proof/Machine/Step.lean ====
section
/-! DEFINITION. One step of the core (R25). -/

namespace Sys2Proof.Machine

/-- One step, in the order of R25 and R161: nothing when halted; the checks on `pc`; the no-op of an annulled
slot, which reads no word; then fetch, decode and the instruction. -/
def step (s : State) : Host.Outcome State Fault Refusal :=
  if s.halted then raise .halted
  else
    fetchCheck s
      (if s.annul then .next s.skipAnnulled
      else fetch s fun w => decodeThen s w fun i => exec i s)

/-- `s` with the word whose bits are `w` (those above `nbits` 0) stored where the next step fetches, and with
nothing annulled and the core not halted, so that the step runs that word. It stands for the host's load of
a program (R176, log 7). -/
def State.withFetchWord (s : State) (nbits w : Nat) : State :=
  s.placeFetch (BitVec.ofNat 32 (w % 2 ^ nbits))

end Sys2Proof.Machine
end

