-- ==== Sys2Proof/Machine/Invariant.lean ====
section
/-! DEFINITION. The invariant of the machine: what holds of the state of every legal run (R5, R9, R16, R36). -/

namespace Sys2Proof.Machine

/-- Every byte that holds a value lies in a word of `MEM_VALID` (R36). -/
def Memory.within (m : Memory) (regions : List Region) : Bool :=
  m.all (fun c => validAt regions (4 * (c.1 / 4)))

/-- A well-formed state: legal parameters (R5), an index inside the windows (R16), banks of the sizes R9 gives,
and memory in canonical form inside `MEM_VALID` (R36). -/
def State.wf (s : State) : Bool :=
  s.cfg.legal && decide (s.cwp < s.cfg.nwindows) &&
  s.globals.length == 8 && s.inputs.length == inputWords s.cfg &&
  s.locals.length == 16 * s.cfg.nwindows && s.outputs.length == 8 * s.cfg.nwindows &&
  s.mem.wf && s.mem.within s.cfg.memValid

end Sys2Proof.Machine
end

