-- ==== Sys2Proof/Machine/Frame.lean ====
section
/-! DEFINITION. What an instruction changes and what it leaves unchanged, in the terms the statements use. -/

namespace Sys2Proof.Machine

/-- An address of a general register: 00 to 27 (R13, R14). -/
def isGeneral (a : RegAddr) : Prop := a.toNat < 0x28

/-- What address `a` names now. -/
def State.dest (s : State) (a : RegAddr) : Loc := locate s.cfg s.cwp a

/-- Every general register, of every window, reads in `t` as in `s`, unless it is one of `dests`. -/
def regsKept (s t : State) (dests : List Loc) : Prop :=
  ∀ w a, w < s.cfg.nwindows → isGeneral a → locate s.cfg w a ∉ dests → t.regIn w a = s.regIn w a

/-- `rd` holds `v` in `t` if it is a general register; a write to `$c0` or `$c1` is discarded (R19); every
other general register is as in `s`. -/
def regWritten (s t : State) (rd : RegAddr) (v : Word) : Prop :=
  (isGeneral rd → t.reg rd = v) ∧ regsKept s t [s.dest rd]

/-- Every byte of memory reads in `t` as in `s`. -/
def memKept (s t : State) : Prop := ∀ x, t.mem.readByte x = s.mem.readByte x

/-- The parameters, the window index, `$psr`, `annul` and `halted` are as before. -/
def controlKept (s t : State) : Prop :=
  t.cfg = s.cfg ∧ t.cwp = s.cwp ∧ t.psr = s.psr ∧ t.annul = s.annul ∧ t.halted = s.halted

/-- `pc <- npc; npc <- npc + 4` (R25). -/
def sequential (s t : State) : Prop := t.pc = s.npc ∧ t.npc = s.npc + 4

/-- `i` completes from `s`: it writes `v` to `rd` and `icc` to `$icc`, goes on in sequence, and changes
nothing else. -/
def writesReg (i : Instr) (s : State) (rd : RegAddr) (v icc : Word) : Prop :=
  ∃ t, exec i s = .next t ∧ regWritten s t rd v ∧ t.icc = icc ∧ memKept s t ∧ controlKept s t ∧
    sequential s t

/-- `i` completes from `s`: it stores the word `v` at `addr`, goes on in sequence, and changes nothing
else. -/
def writesMem (i : Instr) (s : State) (addr v : Word) : Prop :=
  ∃ t, exec i s = .next t ∧
    (∀ x, t.mem.readByte x =
      if addr.toNat ≤ x ∧ x < addr.toNat + 4 then some (byteOfWord s.cfg.byteOrder v (x - addr.toNat))
      else s.mem.readByte x) ∧
    regsKept s t [] ∧ t.icc = s.icc ∧ controlKept s t ∧ sequential s t

/-- `i` completes from `s`: it writes the link `npc + 4` to `rd`, goes to the old `npc` and then to `target`,
leaves `annul` as `an`, and changes nothing else. -/
def jumpsTo (i : Instr) (s : State) (rd : RegAddr) (target : Word) (an : Bool) : Prop :=
  ∃ t, exec i s = .next t ∧ regWritten s t rd (s.npc + 4) ∧ t.icc = s.icc ∧ memKept s t ∧
    t.cfg = s.cfg ∧ t.cwp = s.cwp ∧ t.psr = s.psr ∧ t.halted = s.halted ∧
    t.annul = an ∧ t.pc = s.npc ∧ t.npc = target

/-- The next step from `s` runs a store to `addr` (R125, R126). -/
def storesTo (s : State) (addr : Word) : Prop :=
  s.annul = false ∧ ∃ w i rt, s.fetchWord = some w ∧ decode s.cfg.logic2Map w = .ok i ∧
    ((∃ rv, i = .st rv rt) ∨ (∃ imm, i = .sti imm rt)) ∧ s.reg rt = addr

/-- `u` is reached from `s` by steps, any number of them, none of which runs a store to `addr`. -/
inductive StepsWithoutStore (addr : Word) (s : State) : State → Prop where
  | refl : StepsWithoutStore addr s s
  | next {t u : State} : StepsWithoutStore addr s t → ¬ storesTo t addr → step t = .next u →
      StepsWithoutStore addr s u

/-- The same outcome with `f` applied to a next state. -/
def mapNext (f : State → State) : Result → Result
  | .next t => .next (f t)
  | .fault r => .fault r
  | .refused r => .refused r

/-- `t` is `s` with the other byte order: each word of memory holds the same value, read in its own state's
order, and everything else is the same. -/
def sameButByteOrder (s t : State) : Prop :=
  (∀ a, a % 4 = 0 → t.mem.readWord t.cfg.byteOrder a = s.mem.readWord s.cfg.byteOrder a) ∧
  { t with mem := [], cfg := { t.cfg with byteOrder := s.cfg.byteOrder } } = { s with mem := [] }

/-- Outcomes that differ in the byte order at most: the same fault or refusal, or next states so related. -/
def sameOutcomeButByteOrder : Result → Result → Prop
  | .next s, .next t => sameButByteOrder s t
  | .fault f, .fault g => f = g
  | .refused f, .refused g => f = g
  | _, _ => False

end Sys2Proof.Machine
end

