-- ==== Sys2Proof/Safety.lean ====
section
/-! DEFINITION. How a run stands and what a safe run is (R149, R183). -/

namespace Sys2Proof.Machine

/-- The final state of a run: a `halt` has executed (R183). -/
def State.final (s : State) : Bool := s.halted

/-- Whether a stop is one of the model faults of R149; `Fault.halted` is the end of a run instead (R183). -/
def Fault.isModelFault : Fault → Bool
  | .halted => false
  | .misalignedFetch _ | .fetchAccessFault _ | .illegalInstruction _ | .reservedEncoding _ => true
  | .iccBitFault _ | .registerFault _ | .uninitialisedRead _ | .windowDestFault _ => true
  | .shiftCountFault _ | .misalignedData _ | .dataAccessFault _ => true

/-- No model fault and no refusal within `n` steps from `s` (R149). -/
def safeFor : Nat → State → Bool
  | 0, _ => true
  | n + 1, s =>
    match step s with
    | .next t => safeFor n t
    | .fault f => !f.isModelFault
    | .refused _ => false

/-- `t` can be reached from `s` by steps (R183). -/
inductive Reaches (s : State) : State → Prop where
  | refl : Reaches s s
  | next {t u : State} : Reaches s t → step t = .next u → Reaches s u

end Sys2Proof.Machine
end

