-- ==== Sys2Proof/Certificates/Slice0/Obligations.lean ====
section
/-! DEFINITION. The statements for the provers. -/

open Sys2Proof Sys2Proof.Machine

/-! ### Encoding and decoding -/

/-- Every well-formed instruction, under every setting of `LOGIC2_MAP` and with every operand, decodes from its own
encoding (R55 to R67, R72). `pop` and `popi` as constructors are the model's choice (log 9). Rests on the spec's
own decisions D4, D5, D15 (log 11). -/
def Obligations.DecodeOfEncode : Prop :=
  ∀ (m : Logic2Map) (i : Instr), wellFormed m i = true → decode m (encode m i) = .ok i

/-- A word that decodes to an instruction is that instruction's encoding once its unused bits are cleared, and the
instruction is well-formed (R68, R72). `pop` and `popi` as constructors are the model's choice (log 9). Rests on
the spec's own decision D2 (log 11). -/
def Obligations.EncodeOfDecode : Prop :=
  ∀ (m : Logic2Map) (w : Word) (i : Instr), decode m w = .ok i →
    wellFormed m i = true ∧ encode m i = w &&& usedMask i

/-- Two words that differ only in unused bits are the same instruction, and the encoder writes those bits as 0
(R68). `pop` and `popi` as constructors are the model's choice (log 9). Rests on the spec's own decision D2 (log
11). -/
def Obligations.UnusedBitsIgnored : Prop :=
  (∀ (m : Logic2Map) (w v : Word) (i : Instr), decode m w = .ok i →
    w &&& usedMask i = v &&& usedMask i → decode m v = .ok i) ∧
  (∀ (m : Logic2Map) (i : Instr), wellFormed m i = true → encode m i &&& usedMask i = encode m i)

/-- The default decoder is the opcode table: at most one row matches a word; a word that decodes matches its form's
row; a word that matches a row decodes to that row's form, or has a `type` of 32 or more; a word that matches none
is illegal or reserved (R72). -/
def Obligations.DecodeFollowsOpcodeTable : Prop :=
  (∀ (w : Word) (p q : OpcodeRow), p ∈ opcodeTable → q ∈ opcodeTable →
    w &&& p.mask = p.value → w &&& q.mask = q.value → p = q) ∧
  (∀ (w : Word) (i : Instr), decode .literal w = .ok i →
    ∃ p ∈ opcodeTable, p.mnemonic = i.mnemonic ∧ w &&& p.mask = p.value) ∧
  (∀ (w : Word) (p : OpcodeRow), p ∈ opcodeTable → w &&& p.mask = p.value →
    (∃ i, decode .literal w = .ok i ∧ i.mnemonic = p.mnemonic) ∨
      (fieldOp w = 0x9#4 ∧ 32 ≤ (fieldR2 w).toNat ∧ decode .literal w = .error (.iccBit (fieldR2 w)))) ∧
  (∀ w : Word, (∀ p ∈ opcodeTable, w &&& p.mask ≠ p.value) →
    decode .literal w = .error (.illegalInstruction w) ∨
      decode .literal w = .error (.reservedEncoding w))

/-- Opcodes B, C, D and E are illegal (R69, R147). Rests on the spec's own decision D4 (log 11). -/
def Obligations.ReservedOpcodesIllegal : Prop :=
  ∀ (m : Logic2Map) (w : Word), 0xB ≤ (fieldOp w).toNat → (fieldOp w).toNat ≤ 0xE →
    decode m w = .error (.illegalInstruction w)

/-- The reserved encodings inside the defined opcodes, under `LOGIC2_MAP = literal`, and no others: every other
word with a defined opcode decodes (R70). Rests on the spec's own decisions D3, D4, D11, D18 (log 11). -/
def Obligations.ReservedEncodings : Prop :=
  ∀ w : Word,
    let op := (fieldOp w).toNat
    (op = 0x0 → w ≠ 0 → decode .literal w = .error (.reservedEncoding w)) ∧
    (op = 0x3 → field w 25 2 = 0b01#2 → decode .literal w = .error (.reservedEncoding w)) ∧
    (op = 0x6 → field w 26 2 = 0b10#2 → decode .literal w = .error (.reservedEncoding w)) ∧
    (op = 0x9 → 32 ≤ (fieldR2 w).toNat → decode .literal w = .error (.iccBit (fieldR2 w))) ∧
    ((op ≤ 0xA ∨ op = 0xF) → (op = 0x0 → w = 0) → (op = 0x3 → field w 25 2 ≠ 0b01#2) →
      (op = 0x6 → field w 26 2 ≠ 0b10#2) → (op = 0x9 → (fieldR2 w).toNat < 32) →
      ∃ i, decode .literal w = .ok i)

/-- What each setting of `LOGIC2_MAP` makes of the register version of opcode 3, by T = 0, 1, 2, 3 (R88, R89, R92).
`pop` as a constructor is the model's choice (log 9). Rests on the spec's own decision D18 (log 11). -/
def Obligations.Logic2MapSelects : Prop :=
  ∀ rd r1 r2 : RegAddr,
    let w := fun m1 m0 => packRRR 0x3 m1 m0 rd r1 r2
    decode .literal (w false false) = .ok (.nor rd r1 r2) ∧
    decode .literal (w false true) = .error (.reservedEncoding (w false true)) ∧
    decode .literal (w true false) = .ok (.nand rd r1 r2) ∧
    decode .literal (w true true) = .ok (.lz rd r1 r2) ∧
    decode .shifted (w false false) = .ok (.nor rd r1 r2) ∧
    decode .shifted (w false true) = .ok (.nand rd r1 r2) ∧
    decode .shifted (w true false) = .ok (.lz rd r1 r2) ∧
    decode .shifted (w true true) = .ok (.pop rd r1 r2) ∧
    decode .strict (w false false) = .ok (.nor rd r1 r2) ∧
    decode .strict (w false true) = .error (.reservedEncoding (w false true)) ∧
    decode .strict (w true false) = .error (.reservedEncoding (w true false)) ∧
    decode .strict (w true true) = .error (.reservedEncoding (w true true))

/-- Words that the spec writes out, one of each family, decode to the instruction they stand for (R76, R80, R93,
R103, R113, R118, R125, R129, R134, R144, R145, R146). Rests on the spec's own decisions D2, D3, D5, D8, D9, D10,
D11, D12, D13, D14, D15, D17, D18, D19, D20, D22, D28 (log 11). -/
def Obligations.SpecWordsDecode : Prop :=
  decode .literal 0x00000000 = .ok .nop ∧
  decode .literal 0x10001083 = .ok (.sub 3 1 2) ∧
  decode .literal 0x20001083 = .ok (.or 3 1 2) ∧
  decode .literal 0x36001083 = .ok (.lz 3 1 2) ∧
  decode .literal 0x46001083 = .ok (.shrx 3 1 2) ∧
  decode .literal 0x50001083 = .ok (.rol 3 1 2) ∧
  decode .literal 0x64000081 = .ok (.st 2 1) ∧
  decode .literal 0x78000146 = .ok (.winc 5 6) ∧
  decode .literal 0x8C001003 = .ok (.jlri 3 0x40) ∧
  decode .literal 0x9E040003 = .ok (.jcriA 3 0 0x40) ∧
  decode .literal 0xA48D1583 = .ok (.li 3 0x123456) ∧
  decode .literal 0xFFFFFFFF = .ok .halt

/-! ### The step -/

/-- When nothing stops or annuls it, a step runs the instruction that the word at `pc` decodes to, and adds nothing
(R25 step 5). Rests on the spec's own decisions D14, D16 (log 11). -/
def Obligations.StepRunsDecodedInstruction : Prop :=
  ∀ (s : State) (w : Word) (i : Instr), s.halted = false → s.annul = false → aligned s.pc = true →
    s.memValid s.pc = true → s.fetchWord = some w → decode s.cfg.logic2Map w = .ok i →
    step s = exec i s

/-- The faults of a step before its instruction runs, in the order of R161: misaligned, then outside memory (an
annulled step included), then, unless annulled, a word never written, then the decode faults. That unwritten memory
has no value is log 2, and that a word has one only when all four of its bytes do is the model's choice (log 8).
Rests on the spec's own decision D26 (log 11). -/
def Obligations.StepFaultsBeforeExecution : Prop :=
  ∀ s : State, s.halted = false →
    (s.pc.toNat % 4 ≠ 0 → step s = .fault (.misalignedFetch s.pc)) ∧
    (s.pc.toNat % 4 = 0 → s.memValid s.pc = false → step s = .fault (.fetchAccessFault s.pc)) ∧
    (s.pc.toNat % 4 = 0 → s.memValid s.pc = true → s.annul = false →
      (s.fetchWord = none → step s = .fault (.uninitialisedRead s.pc)) ∧
      (∀ w, s.fetchWord = some w →
        (0xB ≤ (fieldOp w).toNat → (fieldOp w).toNat ≤ 0xE →
          step s = .fault (.illegalInstruction w)) ∧
        (decode s.cfg.logic2Map w = .error (.reservedEncoding w) →
          step s = .fault (.reservedEncoding w)) ∧
        ((fieldOp w).toNat = 0x9 → 32 ≤ (fieldR2 w).toNat →
          step s = .fault (.iccBitFault (fieldR2 w)))))

/-- A jump to a target that is not a multiple of 4 is no fault of the jump, a Link Jump or a taken Conditional Jump,
which completes and writes its link; the step after the delay slot, which would fetch there, faults (R44, R130 to
R136). Rests on the spec's own decisions D5, D9, D11, D12, D13, D14, D15, D16, D22 (log 11). -/
def Obligations.MisalignedTargetFaultsAtFetch : Prop :=
  (∀ (s : State) (rd r1 : RegAddr) (type : BitVec 6), s.wf = true → readable r1 = true →
    writable rd = true →
    ((s.reg r1).toNat % 4 ≠ 0 →
      jumpsTo (.jl rd r1) s rd (s.reg r1) false ∧
      (type.toNat < 32 → s.icc.getLsbD type.toNat = s.cfg.jumpSense →
        jumpsTo (.jc rd type r1) s rd (s.reg r1) false ∧
        jumpsTo (.jcA rd type r1) s rd (s.reg r1) true)) ∧
    ((s.npc + s.reg r1).toNat % 4 ≠ 0 →
      jumpsTo (.jlr rd r1) s rd (s.npc + s.reg r1) false ∧
      (type.toNat < 32 → s.icc.getLsbD type.toNat = s.cfg.jumpSense →
        jumpsTo (.jcr rd type r1) s rd (s.npc + s.reg r1) false ∧
        jumpsTo (.jcrA rd type r1) s rd (s.npc + s.reg r1) true))) ∧
  (∀ (s : State) (rd : RegAddr) (imm : BitVec 20), s.wf = true → writable rd = true →
    ((widen s.cfg.immExt imm).toNat % 4 ≠ 0 →
      jumpsTo (.jli rd imm) s rd (widen s.cfg.immExt imm) false) ∧
    ((s.npc + widen s.cfg.immExt imm).toNat % 4 ≠ 0 →
      jumpsTo (.jlri rd imm) s rd (s.npc + widen s.cfg.immExt imm) false)) ∧
  (∀ (s : State) (rd : RegAddr) (type : BitVec 6) (imm : BitVec 13), s.wf = true →
    writable rd = true → type.toNat < 32 → s.icc.getLsbD type.toNat = s.cfg.jumpSense →
    ((widen s.cfg.immExt imm).toNat % 4 ≠ 0 →
      jumpsTo (.jci rd type imm) s rd (widen s.cfg.immExt imm) false ∧
      jumpsTo (.jciA rd type imm) s rd (widen s.cfg.immExt imm) true) ∧
    ((s.npc + widen s.cfg.immExt imm).toNat % 4 ≠ 0 →
      jumpsTo (.jcri rd type imm) s rd (s.npc + widen s.cfg.immExt imm) false ∧
      jumpsTo (.jcriA rd type imm) s rd (s.npc + widen s.cfg.immExt imm) true)) ∧
  (∀ s t u : State, step s = .next t → step t = .next u → u.halted = false → t.npc.toNat % 4 ≠ 0 →
    step u = .fault (.misalignedFetch t.npc))

/-- `halted` is 0 after reset, is set by `halt`, is cleared by nothing, and a halted core takes no step (R32). That
`step` answers `Fault.halted` there is the model's choice (log 6), and so is what `exec` does from a halted state
(log 13). Rests on the spec's own decision D28 (log 11). -/
def Obligations.HaltedRule : Prop :=
  (∀ c m, (State.resetWith c m).halted = false) ∧
  (∀ (i : Instr) (s t : State), exec i s = .next t → (t.halted = true ↔ s.halted = true ∨ i = .halt)) ∧
  (∀ (s t : State), step s = .next t → s.halted = false) ∧
  (∀ s : State, s.halted = true → step s = .fault .halted)

/-- `annul` is 0 after reset, is set by a taken Conditional Jump with A = 1, is read by no register address, and
the next step clears it and executes nothing: only `pc` and `npc` move (R31). Rests on the spec's own decision D16
(log 11). -/
def Obligations.AnnulRule : Prop :=
  (∀ c m, (State.resetWith c m).annul = false) ∧
  (∀ (s : State) (rd r1 : RegAddr) (type : BitVec 6), type.toNat < 32 → readable r1 = true →
    writable rd = true → s.icc.getLsbD type.toNat = s.cfg.jumpSense →
    (∃ t, exec (.jcA rd type r1) s = .next t ∧ t.annul = true) ∧
    (∃ t, exec (.jcrA rd type r1) s = .next t ∧ t.annul = true)) ∧
  (∀ (s : State) (rd : RegAddr) (type : BitVec 6) (imm : BitVec 13), type.toNat < 32 →
    writable rd = true → s.icc.getLsbD type.toNat = s.cfg.jumpSense →
    (∃ t, exec (.jciA rd type imm) s = .next t ∧ t.annul = true) ∧
    (∃ t, exec (.jcriA rd type imm) s = .next t ∧ t.annul = true)) ∧
  (∀ s : State, s.annul = true → s.halted = false → aligned s.pc = true → s.memValid s.pc = true →
    step s = .next { s with annul := false, pc := s.npc, npc := s.npc + 4 }) ∧
  (∀ (s : State) (a : RegAddr) (b : Bool), State.reg { s with annul := b } a = s.reg a)

/-- Only the annulling Conditional Jumps set `annul`, and at `ANNUL_NOT_TAKEN = execute` only when taken (R31,
R136, R178). Rests on the spec's own decisions D5, D11, D12, D13, D15, D16 (log 11). -/
def Obligations.OnlyAnnullingJumpsAnnul : Prop :=
  ∀ (i : Instr) (s t : State), exec i s = .next t → s.annul = false → t.annul = true →
    ∃ (rd : RegAddr) (type : BitVec 6),
      ((∃ r1, i = .jcA rd type r1 ∨ i = .jcrA rd type r1) ∨
        (∃ imm, i = .jciA rd type imm ∨ i = .jcriA rd type imm)) ∧
      (s.cfg.annulNotTaken = .execute → s.icc.getLsbD type.toNat = s.cfg.jumpSense)

/-- After every instruction but `halt`, `pc` is the old `npc`; `npc` is the old `npc + 4` unless the instruction is
a jump; `halt` keeps both (R25 step 6). Rests on the spec's own decisions D14, D16 (log 11). -/
def Obligations.SequencingRule : Prop :=
  ∀ (i : Instr) (s t : State), exec i s = .next t →
    (i = .halt → t.pc = s.pc ∧ t.npc = s.npc) ∧
    (i ≠ .halt → t.pc = s.npc) ∧
    (i ≠ .halt → i.opcode ≠ 0x8#4 → i.opcode ≠ 0x9#4 → t.npc = s.npc + 4)

/-- A word placed where the next step fetches is the word that the step fetches, and nothing but memory, `annul`
and `halted` is touched (the model's choice, log 7). -/
def Obligations.PlacedWordIsFetched : Prop :=
  ∀ (s : State) (w : Nat), (s.withFetchWord 32 w).fetchWord = some (BitVec.ofNat 32 w) ∧
    (∀ x, (x < s.pc.toNat ∨ s.pc.toNat + 4 ≤ x) →
      (s.withFetchWord 32 w).mem.readByte x = s.mem.readByte x) ∧
    { s.withFetchWord 32 w with mem := s.mem, annul := s.annul, halted := s.halted } = s

/-! ### Invariants and whole-machine rules -/

/-- The state after reset, for any parameters and any memory the host loaded, and the defaults of R5 that
`State.reset` takes: execution starts at address 0 in window 0 of 8 (R5, R33, R174). That `State.reset` takes the
defaults is the model's choice (log 15), and so is the default `MEM_VALID`, which nothing here mentions (log 4).
Rests on the spec's own decisions D5, D7, D9, D29, D33 (log 11). -/
def Obligations.ResetState : Prop :=
  (∀ (c : Config) (m : Memory),
    let s := State.resetWith c m
    s.pc = c.resetPc ∧ s.npc = c.resetPc + 4 ∧ s.annul = false ∧ s.halted = false ∧
    s.cwp = c.resetCwp ∧ s.mem = m ∧ s.cfg = c ∧ s.reg 0x3E = 0x00000000 ∧ s.reg 0x3F = 0xFFFFFFFF) ∧
  State.reset.pc = 0 ∧ State.reset.npc = 4 ∧ State.reset.cwp = 0 ∧
  State.reset.cfg.nwindows = 8 ∧ State.reset.cfg.windowOverlap = .overlap ∧
  State.reset.cfg.immExt = .sign ∧ State.reset.cfg.iccLayout = .standard ∧
  State.reset.cfg.subCarry = .borrow ∧ State.reset.cfg.jumpSense = true ∧
  State.reset.cfg.linkNotTaken = .write ∧ State.reset.cfg.annulNotTaken = .execute ∧
  State.reset.cfg.unarySrc = .in1 ∧ State.reset.cfg.logic2Map = .literal ∧
  State.reset.cfg.shiftCount = .full ∧ State.reset.cfg.byteOrder = .big

/-- Reset gives a well-formed state, for every legal setting of the parameters and every canonical memory inside
`MEM_VALID`; so does `State.reset` (R5, R33). That `State.reset` takes the defaults, and `MEM_VALID` whole, is the
model's choice (logs 4 and 15). Rests on the spec's own decisions D5, D7, D9, D29, D33 (log 11). -/
def Obligations.ResetWellFormed : Prop :=
  (∀ (c : Config) (m : Memory), c.legal = true → m.wf = true → m.within c.memValid = true →
    (State.resetWith c m).wf = true) ∧
  State.reset.wf = true

/-- Every step keeps the state well-formed: the parameters legal, the window index below `NWINDOWS`, the banks of
their sizes, memory canonical and inside `MEM_VALID` (R5, R9, R16, R36). The sizes of the banks as lists, and
memory as a list of bytes, are the model's (log 8). Rests on the spec's own decisions D5, D7, D8, D9, D16, D23, D28
(log 11). -/
def Obligations.StepKeepsWellFormed : Prop :=
  ∀ s t : State, s.wf = true → step s = .next t → t.wf = true

/-- No step changes a parameter (R10). Rests on the spec's own decision D24 (log 11). -/
def Obligations.StepKeepsParameters : Prop :=
  ∀ s t : State, step s = .next t → t.cfg = s.cfg

/-- `$psr` has no effect on any rule, no rule writes it, and address 3D can be neither read nor written (R27).
Rests on the spec's own decisions D6, D27 (log 11). -/
def Obligations.PsrIsOpaque : Prop :=
  (∀ (s : State) (v : Word),
    step { s with psr := v } = mapNext (fun t => { t with psr := v }) (step s)) ∧
  (∀ s t : State, step s = .next t → t.psr = s.psr) ∧
  (∀ (s : State) (k : Word → Result), readReg 0x3D s k = .fault (.registerFault 0x3D)) ∧
  (∀ k : Result, wcheck 0x3D k = .fault (.registerFault 0x3D))

/-- Exactly six forms write `$icc`: no other changes it, and each of the six replaces the whole word by
`ICC_LAYOUT` of its result, carry and overflow (R21), the last of which, for the Register Window forms, is whether
the index wrapped (R127). That a window index is taken modulo 2^32 where it enters `ICC_LAYOUT` is the model's choice
(log 10). Rests on the spec's own decisions D7, D8, D9, D10 (log 11). -/
def Obligations.IccWriters : Prop :=
  (∀ (i : Instr) (s t : State), exec i s = .next t → t.icc ≠ s.icc →
    (∃ rd r1 r2, i = .subcc rd r1 r2 ∨ i = .addcc rd r1 r2) ∨
    (∃ rd imm r2, i = .subcci rd imm r2 ∨ i = .addcci rd imm r2) ∨
    (∃ p c, i = .wdec p c ∨ i = .winc p c)) ∧
  (∀ (s t : State) (rd r1 r2 : RegAddr), exec (.subcc rd r1 r2) s = .next t →
    t.icc = iccLayout s.cfg.iccLayout (s.reg r1 - s.reg r2)
      (subCarry s.cfg.subCarry (s.reg r1) (s.reg r2)) (subOverflow (s.reg r1) (s.reg r2))) ∧
  (∀ (s t : State) (rd r1 r2 : RegAddr), exec (.addcc rd r1 r2) s = .next t →
    t.icc = iccLayout s.cfg.iccLayout (s.reg r1 + s.reg r2)
      (addCarry (s.reg r1) (s.reg r2)) (addOverflow (s.reg r1) (s.reg r2))) ∧
  (∀ (s t : State) (rd : RegAddr) (imm : BitVec 13) (r2 : RegAddr),
    exec (.subcci rd imm r2) s = .next t →
    t.icc = iccLayout s.cfg.iccLayout (widen s.cfg.immExt imm - s.reg r2)
      (subCarry s.cfg.subCarry (widen s.cfg.immExt imm) (s.reg r2))
      (subOverflow (widen s.cfg.immExt imm) (s.reg r2))) ∧
  (∀ (s t : State) (rd : RegAddr) (imm : BitVec 13) (r2 : RegAddr),
    exec (.addcci rd imm r2) s = .next t →
    t.icc = iccLayout s.cfg.iccLayout (widen s.cfg.immExt imm + s.reg r2)
      (addCarry (widen s.cfg.immExt imm) (s.reg r2))
      (addOverflow (widen s.cfg.immExt imm) (s.reg r2))) ∧
  (∀ (s t : State) (p c : RegAddr),
    (exec (.winc p c) s = .next t →
      t.icc = iccLayout s.cfg.iccLayout (BitVec.ofNat 32 ((s.cwp + 1) % s.cfg.nwindows)) false
        (decide (s.cwp + 1 = s.cfg.nwindows))) ∧
    (exec (.wdec p c) s = .next t →
      t.icc = iccLayout s.cfg.iccLayout
        (BitVec.ofNat 32 ((s.cwp + s.cfg.nwindows - 1) % s.cfg.nwindows)) false
        (decide (s.cwp = 0))))

/-- Only the Register Window forms change the window index (R16). Rests on the spec's own decision D8 (log 11). -/
def Obligations.CwpWriters : Prop :=
  ∀ (i : Instr) (s t : State), exec i s = .next t → t.cwp ≠ s.cwp → ∃ p c, i = .wdec p c ∨ i = .winc p c

/-- Only `st` and `sti` change memory, and only the four bytes at the address in `Reg Trg` (R34, R122). Rests on
the spec's own decisions D20, D23 (log 11). -/
def Obligations.MemoryWriters : Prop :=
  ∀ (i : Instr) (s t : State) (x : Nat), exec i s = .next t → t.mem.readByte x ≠ s.mem.readByte x →
    ∃ rt : RegAddr, ((∃ rv, i = .st rv rt) ∨ (∃ imm, i = .sti imm rt)) ∧
      (s.reg rt).toNat ≤ x ∧ x < (s.reg rt).toNat + 4

/-- No program can observe the byte order: two states that differ only in it, each word of memory being the same in
its own order, take the same step (R42). Memory as bytes, of which a word may hold some only, is the model's choice
(log 8). Rests on the spec's own decision D21 (log 11). -/
def Obligations.ByteOrderUnobservable : Prop :=
  ∀ s t : State, sameButByteOrder s t → sameOutcomeButByteOrder (step s) (step t)

/-! ### Registers and immediates -/

/-- The addresses that can be read and those that can be written, and that `$icc`, `$pc` and `$npc` are read but
not written (R28, R29). Rests on the spec's own decisions D6, D33 (log 11). -/
def Obligations.RegisterAccessClasses : Prop :=
  ∀ a : RegAddr,
    (readable a = false ↔ (0x28 ≤ a.toNat ∧ a.toNat ≤ 0x30) ∨ (0x32 ≤ a.toNat ∧ a.toNat ≤ 0x3A) ∨
      a.toNat = 0x3D) ∧
    (writable a = false ↔ 0x28 ≤ a.toNat ∧ a.toNat ≤ 0x3D)

/-- Reading each address gives what R28 says of it, with R15's mapping of the windowed ones. Rests on the spec's
own decisions D6, D7, D33 (log 11). -/
def Obligations.RegisterReads : Prop :=
  ∀ (s : State) (k : Word → Result) (a : RegAddr), s.wf = true →
    (a.toNat ≤ 0x07 → readReg a s k = k (s.globals.getD a.toNat 0)) ∧
    (0x08 ≤ a.toNat → a.toNat ≤ 0x0F → s.cfg.windowOverlap = .overlap →
      readReg a s k = k (s.outputs.getD
        (8 * (if s.cwp = 0 then s.cfg.nwindows - 1 else s.cwp - 1) + (a.toNat - 0x08)) 0)) ∧
    (0x08 ≤ a.toNat → a.toNat ≤ 0x0F → s.cfg.windowOverlap = .disjoint →
      readReg a s k = k (s.inputs.getD (8 * s.cwp + (a.toNat - 0x08)) 0)) ∧
    (0x10 ≤ a.toNat → a.toNat ≤ 0x17 →
      readReg a s k = k (s.locals.getD (16 * s.cwp + (a.toNat - 0x10)) 0)) ∧
    (0x18 ≤ a.toNat → a.toNat ≤ 0x1F →
      readReg a s k = k (s.outputs.getD (8 * s.cwp + (a.toNat - 0x18)) 0)) ∧
    (0x20 ≤ a.toNat → a.toNat ≤ 0x27 →
      readReg a s k = k (s.locals.getD (16 * s.cwp + 8 + (a.toNat - 0x20)) 0)) ∧
    (a.toNat = 0x31 → readReg a s k = k s.icc) ∧
    (a.toNat = 0x3B → readReg a s k = k s.pc) ∧
    (a.toNat = 0x3C → readReg a s k = k s.npc) ∧
    (a.toNat = 0x3E → readReg a s k = k 0x00000000) ∧
    (a.toNat = 0x3F → readReg a s k = k 0xFFFFFFFF) ∧
    ((0x28 ≤ a.toNat ∧ a.toNat ≤ 0x30) ∨ (0x32 ≤ a.toNat ∧ a.toNat ≤ 0x3A) ∨ a.toNat = 0x3D →
      readReg a s k = .fault (.registerFault a))

/-- `$c0` and `$c1` read as their constants in every state and every window; a write to either changes nothing and
raises nothing, so an instruction that names one as its destination throws the result away (R19). Rests on the
spec's own decision D6 (log 11). -/
def Obligations.ConstantRegisters : Prop :=
  ∀ s : State, (∀ w, s.regIn w 0x3E = 0x00000000 ∧ s.regIn w 0x3F = 0xFFFFFFFF) ∧
    ∀ rd : RegAddr, rd = 0x3E ∨ rd = 0x3F →
      (∀ v, s.setReg rd v = s) ∧ (∀ k : Result, wcheck rd k = k) ∧
      (∀ imm, exec (.li rd imm) s = .next s.advance) ∧
      (∀ r1 r2, readable r1 = true → readable r2 = true → exec (.add rd r1 r2) s = .next s.advance)

/-- Immediates keep their signed value under `IMM_EXT = sign` and their unsigned one under `zero`, in all three
widths (R7, R67). Rests on the spec's own decisions D1, D5, D15 (log 11). -/
def Obligations.ImmediateWidening : Prop :=
  ∀ (i : BitVec 13) (j : BitVec 20) (k : BitVec 22),
    (widen .sign i).toInt = i.toInt ∧ (widen .sign j).toInt = j.toInt ∧
    (widen .sign k).toInt = k.toInt ∧
    (widen .zero i).toNat = i.toNat ∧ (widen .zero j).toNat = j.toNat ∧
    (widen .zero k).toNat = k.toNat

/-! ### Add/Subtract -/

/-- `sub rd, r1, r2`, the whole rule: its words, what it computes, the faults, the corner cases and the worked
example (R80). -/
def Obligations.SubtractRule : Prop :=
  (∀ (m : Logic2Map) (w : Word), w &&& 0xFE000000 = 0x10000000 →
    decode m w = .ok (.sub (fieldRd w) (fieldR1 w) (fieldR2 w))) ∧
  (∀ (s : State) (rd r1 r2 : RegAddr), s.wf = true →
    (readable r1 = true → readable r2 = true → writable rd = true →
      writesReg (.sub rd r1 r2) s rd (s.reg r1 - s.reg r2) s.icc) ∧
    (readable r1 = false → exec (.sub rd r1 r2) s = .fault (.registerFault r1)) ∧
    (readable r1 = true → readable r2 = false →
      exec (.sub rd r1 r2) s = .fault (.registerFault r2)) ∧
    (readable r1 = true → readable r2 = true → writable rd = false →
      exec (.sub rd r1 r2) s = .fault (.registerFault rd)) ∧
    (readable r2 = true → writable rd = true →
      writesReg (.sub rd r2 r2) s rd 0 s.icc ∧
      writesReg (.sub rd 0x3E r2) s rd (-(s.reg r2)) s.icc) ∧
    (readable r1 = true → readable r2 = true →
      exec (.sub 0x3E r1 r2) s = .next s.advance)) ∧
  (0 : Word) - 1 = 0xFFFFFFFF ∧ (0x80000000 : Word) - 1 = 0x7FFFFFFF ∧
  (∀ m, decode m 0x10001083 = .ok (.sub 3 1 2)) ∧
  (∀ s : State, s.wf = true → s.reg 1 = 3 → s.reg 2 = 5 →
    writesReg (.sub 3 1 2) s 3 0xFFFFFFFE s.icc)

/-- The four Add/Subtract forms with C = 0: the result, taken modulo 2^32, and nothing else; `$icc` keeps its value
(R77, R78, R80, R82, R84, R86). Rests on the spec's own decisions D1, D5 (log 11). -/
def Obligations.AddSubtractWithoutFlags : Prop :=
  (∀ (s : State) (rd r1 r2 : RegAddr), s.wf = true → readable r1 = true → readable r2 = true →
    writable rd = true →
    writesReg (.sub rd r1 r2) s rd (s.reg r1 - s.reg r2) s.icc ∧
    writesReg (.add rd r1 r2) s rd (s.reg r1 + s.reg r2) s.icc) ∧
  (∀ (s : State) (rd : RegAddr) (imm : BitVec 13) (r2 : RegAddr), s.wf = true →
    readable r2 = true → writable rd = true →
    writesReg (.subi rd imm r2) s rd (widen s.cfg.immExt imm - s.reg r2) s.icc ∧
    writesReg (.addi rd imm r2) s rd (widen s.cfg.immExt imm + s.reg r2) s.icc)

/-- The four Add/Subtract forms with C = 1: the result, and `$icc` replaced by `ICC_LAYOUT` of the result, the
carry and the overflow as R79 defines them. Rests on the spec's own decisions D9, D10 (log 11). -/
def Obligations.AddSubtractWithFlags : Prop :=
  let addIcc := fun (c : Config) (a b : Word) =>
    iccLayout c.iccLayout (a + b) (decide (2 ^ 32 ≤ a.toNat + b.toNat))
      (decide (a.msb = b.msb ∧ (a + b).msb ≠ a.msb))
  let subIcc := fun (c : Config) (a b : Word) =>
    iccLayout c.iccLayout (a - b)
      (if c.subCarry = .borrow then decide (a.toNat < b.toNat) else !decide (a.toNat < b.toNat))
      (decide (a.msb ≠ b.msb ∧ (a - b).msb ≠ a.msb))
  (∀ (s : State) (rd r1 r2 : RegAddr), s.wf = true → readable r1 = true → readable r2 = true →
    writable rd = true →
    writesReg (.subcc rd r1 r2) s rd (s.reg r1 - s.reg r2) (subIcc s.cfg (s.reg r1) (s.reg r2)) ∧
    writesReg (.addcc rd r1 r2) s rd (s.reg r1 + s.reg r2) (addIcc s.cfg (s.reg r1) (s.reg r2))) ∧
  (∀ (s : State) (rd : RegAddr) (imm : BitVec 13) (r2 : RegAddr), s.wf = true →
    readable r2 = true → writable rd = true →
    writesReg (.subcci rd imm r2) s rd (widen s.cfg.immExt imm - s.reg r2)
      (subIcc s.cfg (widen s.cfg.immExt imm) (s.reg r2)) ∧
    writesReg (.addcci rd imm r2) s rd (widen s.cfg.immExt imm + s.reg r2)
      (addIcc s.cfg (widen s.cfg.immExt imm) (s.reg r2)))

/-- The overflow flag says that the signed result does not fit 32 bits, and the carry flag, under `SUB_CARRY =
borrow`, that the unsigned one does not (R79). The signed and unsigned reading is an inference (R79 gives the
bits). Rests on the spec's own decisions D9, D10 (log 11). -/
def Obligations.FlagsAreArithmetic : Prop :=
  ∀ a b : Word,
    (addOverflow a b = true ↔ a.toInt + b.toInt < -2 ^ 31 ∨ 2 ^ 31 ≤ a.toInt + b.toInt) ∧
    (subOverflow a b = true ↔ a.toInt - b.toInt < -2 ^ 31 ∨ 2 ^ 31 ≤ a.toInt - b.toInt) ∧
    (addCarry a b = true ↔ 2 ^ 32 ≤ a.toNat + b.toNat) ∧
    (subCarry .borrow a b = true ↔ (a.toNat : Int) - b.toNat < 0) ∧
    (subCarry .notBorrow a b = true ↔ 0 ≤ (a.toNat : Int) - b.toNat)

/-- The default layout of `$icc`: Z, N, C and V in bits 0 to 3, the other bits 0 (R22). Rests on the spec's own
decision D9 (log 11). -/
def Obligations.StandardIccLayout : Prop :=
  ∀ (r : Word) (c v : Bool),
    let icc := iccLayout .standard r c v
    (icc.getLsbD 0 = true ↔ r = 0) ∧ icc.getLsbD 1 = r.msb ∧ icc.getLsbD 2 = c ∧ icc.getLsbD 3 = v ∧
    ∀ j, 4 ≤ j → icc.getLsbD j = false

/-! ### Logic -/

/-- `or rd, r1, r2`, the whole rule: its words, what it computes, the faults, the corner cases and the worked
example (R93). -/
def Obligations.OrRule : Prop :=
  (∀ (m : Logic2Map) (w : Word), w &&& 0xFE000000 = 0x20000000 →
    decode m w = .ok (.or (fieldRd w) (fieldR1 w) (fieldR2 w))) ∧
  (∀ (s : State) (rd r1 r2 : RegAddr), s.wf = true →
    (readable r1 = true → readable r2 = true → writable rd = true →
      writesReg (.or rd r1 r2) s rd (s.reg r1 ||| s.reg r2) s.icc) ∧
    (readable r1 = false → exec (.or rd r1 r2) s = .fault (.registerFault r1)) ∧
    (readable r1 = true → readable r2 = false →
      exec (.or rd r1 r2) s = .fault (.registerFault r2)) ∧
    (readable r1 = true → readable r2 = true → writable rd = false →
      exec (.or rd r1 r2) s = .fault (.registerFault rd)) ∧
    (readable r1 = true → writable rd = true →
      writesReg (.or rd r1 0x3E) s rd (s.reg r1) s.icc ∧
      writesReg (.or rd r1 0x3F) s rd 0xFFFFFFFF s.icc ∧
      writesReg (.or rd 0x31 0x3E) s rd s.icc s.icc)) ∧
  (∀ m, decode m 0x20001083 = .ok (.or 3 1 2)) ∧
  (∀ s : State, s.wf = true → s.reg 1 = 0x0F0F00FF → s.reg 2 = 0x00FF0F0F →
    writesReg (.or 3 1 2) s 3 0x0FFF0FFF s.icc)

/-- `and rd, r1, r2`, the whole rule: its words, what it computes, the faults, the corner cases and the worked
example (R94). -/
def Obligations.AndRule : Prop :=
  (∀ (m : Logic2Map) (w : Word), w &&& 0xFE000000 = 0x22000000 →
    decode m w = .ok (.and (fieldRd w) (fieldR1 w) (fieldR2 w))) ∧
  (∀ (s : State) (rd r1 r2 : RegAddr), s.wf = true →
    (readable r1 = true → readable r2 = true → writable rd = true →
      writesReg (.and rd r1 r2) s rd (s.reg r1 &&& s.reg r2) s.icc) ∧
    (readable r1 = false → exec (.and rd r1 r2) s = .fault (.registerFault r1)) ∧
    (readable r1 = true → readable r2 = false →
      exec (.and rd r1 r2) s = .fault (.registerFault r2)) ∧
    (readable r1 = true → readable r2 = true → writable rd = false →
      exec (.and rd r1 r2) s = .fault (.registerFault rd)) ∧
    (readable r1 = true → writable rd = true →
      writesReg (.and rd r1 0x3E) s rd 0 s.icc ∧
      writesReg (.and rd r1 0x3F) s rd (s.reg r1) s.icc)) ∧
  (∀ m, decode m 0x22001083 = .ok (.and 3 1 2)) ∧
  (∀ s : State, s.wf = true → s.reg 1 = 0x0F0F00FF → s.reg 2 = 0x00FF0F0F →
    writesReg (.and 3 1 2) s 3 0x000F000F s.icc)

/-- OR, AND, exclusive OR, NOR and NAND, register and immediate versions: the bitwise result and nothing else (R90,
R91, R93 to R105). What `exec` does with a form that the setting of `LOGIC2_MAP` does not decode is the model's
choice (log 13). Rests on the spec's own decisions D5, D17, D18 (log 11). -/
def Obligations.LogicTwoOperandForms : Prop :=
  (∀ (s : State) (rd r1 r2 : RegAddr), s.wf = true → readable r1 = true → readable r2 = true →
    writable rd = true →
    writesReg (.or rd r1 r2) s rd (s.reg r1 ||| s.reg r2) s.icc ∧
    writesReg (.and rd r1 r2) s rd (s.reg r1 &&& s.reg r2) s.icc ∧
    writesReg (.xor rd r1 r2) s rd (s.reg r1 ^^^ s.reg r2) s.icc ∧
    writesReg (.nor rd r1 r2) s rd (~~~(s.reg r1 ||| s.reg r2)) s.icc ∧
    writesReg (.nand rd r1 r2) s rd (~~~(s.reg r1 &&& s.reg r2)) s.icc) ∧
  (∀ (s : State) (rd : RegAddr) (imm : BitVec 13) (r2 : RegAddr), s.wf = true →
    readable r2 = true → writable rd = true →
    writesReg (.ori rd imm r2) s rd (widen s.cfg.immExt imm ||| s.reg r2) s.icc ∧
    writesReg (.andi rd imm r2) s rd (widen s.cfg.immExt imm &&& s.reg r2) s.icc ∧
    writesReg (.xori rd imm r2) s rd (widen s.cfg.immExt imm ^^^ s.reg r2) s.icc ∧
    writesReg (.nori rd imm r2) s rd (~~~(widen s.cfg.immExt imm ||| s.reg r2)) s.icc ∧
    writesReg (.nandi rd imm r2) s rd (~~~(widen s.cfg.immExt imm &&& s.reg r2)) s.icc)

/-- NOT, leading zeros and population count, register and immediate versions: the function of Input 1 under
`UNARY_SRC = in1` and of Input 2 under `in2`, and nothing else; both inputs must be readable (R90, R91). `pop` and
`popi` as constructors are the model's choice (log 9), and so is what `exec` does with a form that the setting of
`LOGIC2_MAP` does not decode (log 13). Rests on the spec's own decisions D5, D17 (log 11). -/
def Obligations.LogicOneOperandForms : Prop :=
  (∀ (s : State) (rd r1 r2 : RegAddr), s.wf = true → readable r1 = true → readable r2 = true →
    writable rd = true →
    let u := if s.cfg.unarySrc = .in1 then s.reg r1 else s.reg r2
    writesReg (.not rd r1 r2) s rd (~~~u) s.icc ∧
    writesReg (.lz rd r1 r2) s rd (clz u) s.icc ∧
    writesReg (.pop rd r1 r2) s rd (popcount u) s.icc) ∧
  (∀ (s : State) (rd : RegAddr) (imm : BitVec 13) (r2 : RegAddr), s.wf = true →
    readable r2 = true → writable rd = true →
    let u := if s.cfg.unarySrc = .in1 then widen s.cfg.immExt imm else s.reg r2
    writesReg (.noti rd imm r2) s rd (~~~u) s.icc ∧
    writesReg (.lzi rd imm r2) s rd (clz u) s.icc ∧
    writesReg (.popi rd imm r2) s rd (popcount u) s.icc)

/-- `clz(u)` is the number of consecutive 0 bits counted from bit 31 downward, 32 for 0 (R91). Rests on the spec's
own decision D17 (log 11). -/
def Obligations.LeadingZerosCounted : Prop :=
  ∀ u : Word, (clz u).toNat ≤ 32 ∧
    (∀ j, j < (clz u).toNat → u.getLsbD (31 - j) = false) ∧
    ((clz u).toNat < 32 → u.getLsbD (31 - (clz u).toNat) = true)

/-- `popcount(u)` is the number of 1 bits of `u` (R91). Rests on the spec's own decision D17 (log 11). -/
def Obligations.OnesCounted : Prop :=
  ∀ u : Word, (popcount u).toNat = (List.range 32).countP (fun j => u.getLsbD j)

/-! ### Shift and Rotate -/

/-- The eight Shift forms: the one-place step of R108 applied as many times as the count says, taken whole under
`full`, modulo 32 under `mod32`, and below 32 under `refuse`; nothing else changes (R107, R108, R110 to R117).
Rests on the spec's own decisions D5, D19 (log 11). -/
def Obligations.ShiftForms : Prop :=
  let count := fun (c : Config) (n : Word) => if c.shiftCount = .mod32 then n.toNat % 32 else n.toNat
  (∀ (s : State) (rd r1 r2 : RegAddr), s.wf = true → readable r1 = true → readable r2 = true →
    writable rd = true → (s.cfg.shiftCount = .refuse → (s.reg r2).toNat < 32) →
    let n := count s.cfg (s.reg r2)
    writesReg (.shl rd r1 r2) s rd (Nat.iterate (shiftStep false false) n (s.reg r1)) s.icc ∧
    writesReg (.shr rd r1 r2) s rd (Nat.iterate (shiftStep false true) n (s.reg r1)) s.icc ∧
    writesReg (.shlx rd r1 r2) s rd (Nat.iterate (shiftStep true false) n (s.reg r1)) s.icc ∧
    writesReg (.shrx rd r1 r2) s rd (Nat.iterate (shiftStep true true) n (s.reg r1)) s.icc) ∧
  (∀ (s : State) (rd : RegAddr) (imm : BitVec 13) (r2 : RegAddr), s.wf = true →
    readable r2 = true → writable rd = true →
    (s.cfg.shiftCount = .refuse → (s.reg r2).toNat < 32) →
    let n := count s.cfg (s.reg r2)
    let v := widen s.cfg.immExt imm
    writesReg (.shli rd imm r2) s rd (Nat.iterate (shiftStep false false) n v) s.icc ∧
    writesReg (.shri rd imm r2) s rd (Nat.iterate (shiftStep false true) n v) s.icc ∧
    writesReg (.shlxi rd imm r2) s rd (Nat.iterate (shiftStep true false) n v) s.icc ∧
    writesReg (.shrxi rd imm r2) s rd (Nat.iterate (shiftStep true true) n v) s.icc)

/-- One step of a shift, bit by bit: every bit moves one place; the new bit is 0 when E = 0 and a copy of the end
bit it stands beside when E = 1 (R108). Rests on the spec's own decision D19 (log 11). -/
def Obligations.ShiftStepMovesBits : Prop :=
  ∀ (v : Word) (e : Bool),
    (∀ j, j < 31 → (shiftStep e false v).getLsbD (j + 1) = v.getLsbD j) ∧
    (shiftStep e false v).getLsbD 0 = (e && v.getLsbD 0) ∧
    (∀ j, j < 31 → (shiftStep e true v).getLsbD j = v.getLsbD (j + 1)) ∧
    (shiftStep e true v).getLsbD 31 = (e && v.getLsbD 31)

/-- For a count of at most 31 the arithmetic right shift is division by a power of two, rounded down (R113). Rests
on the spec's own decision D19 (log 11). -/
def Obligations.ArithmeticRightShiftDivides : Prop :=
  ∀ (v : Word) (n : Nat), n ≤ 31 → (shiftBits v n true true).toInt = v.toInt / 2 ^ n

/-- A shift by 32 or more under `SHIFT_COUNT = refuse` faults, after the checks of the registers, in all eight
forms (R108, R158, R161). Rests on the spec's own decisions D19, D26 (log 11). -/
def Obligations.LargeShiftCountRefused : Prop :=
  ∀ (s : State) (rd r1 r2 : RegAddr) (imm : BitVec 13), s.cfg.shiftCount = .refuse →
    readable r2 = true → writable rd = true → 32 ≤ (s.reg r2).toNat →
    (readable r1 = true → ∀ i ∈ [Instr.shl rd r1 r2, .shr rd r1 r2, .shlx rd r1 r2, .shrx rd r1 r2],
      exec i s = .fault (.shiftCountFault (s.reg r2))) ∧
    (∀ i ∈ [Instr.shli rd imm r2, .shri rd imm r2, .shlxi rd imm r2, .shrxi rd imm r2],
      exec i s = .fault (.shiftCountFault (s.reg r2)))

/-- The four Rotate forms complete at every count, writing `rotl` or `rotr` of the value and nothing else (R109,
R118 to R121). Rests on the spec's own decisions D2, D5 (log 11). -/
def Obligations.RotateForms : Prop :=
  (∀ (s : State) (rd r1 r2 : RegAddr), s.wf = true → readable r1 = true → readable r2 = true →
    writable rd = true →
    writesReg (.rol rd r1 r2) s rd (rotl (s.reg r1) (s.reg r2).toNat) s.icc ∧
    writesReg (.ror rd r1 r2) s rd (rotr (s.reg r1) (s.reg r2).toNat) s.icc) ∧
  (∀ (s : State) (rd : RegAddr) (imm : BitVec 13) (r2 : RegAddr), s.wf = true →
    readable r2 = true → writable rd = true →
    writesReg (.roli rd imm r2) s rd (rotl (widen s.cfg.immExt imm) (s.reg r2).toNat) s.icc ∧
    writesReg (.rori rd imm r2) s rd (rotr (widen s.cfg.immExt imm) (s.reg r2).toNat) s.icc)

/-- `rotl` moves every bit `n` places toward bit 31, the bits leaving bit 31 re-entering at bit 0, and `rotr` is
the opposite, at every count (R109). Rests on the spec's own decision D2 (log 11). -/
def Obligations.RotateMovesBits : Prop :=
  ∀ (v : Word) (n j : Nat), j < 32 →
    (rotl v n).getLsbD ((j + n) % 32) = v.getLsbD j ∧ (rotr v n).getLsbD j = v.getLsbD ((j + n) % 32)

/-! ### Memory Access -/

/-- `ld` from an aligned word of `MEM_VALID` that holds a value: `rd` takes it and nothing else changes (R124). A
word holds a value when all four of its bytes do (log 8). Rests on the spec's own decisions D20, D22 (log 11). -/
def Obligations.LoadForm : Prop :=
  ∀ (s : State) (rd rt : RegAddr) (v : Word), s.wf = true → readable rt = true → writable rd = true →
    aligned (s.reg rt) = true → s.memValid (s.reg rt) = true →
    s.mem.readWord s.cfg.byteOrder (s.reg rt).toNat = some v →
    writesReg (.ld rd rt) s rd v s.icc

/-- `st` and `sti` to an aligned word of `MEM_VALID`: the four bytes at the address in `Reg Trg` take the value in
the order of `BYTE_ORDER`, and nothing else changes (R42, R122, R125, R126). Rests on the spec's own decisions D5,
D20, D21, D22 (log 11). -/
def Obligations.StoreForms : Prop :=
  ∀ (s : State) (rv rt : RegAddr) (imm : BitVec 20), readable rt = true →
    aligned (s.reg rt) = true → s.memValid (s.reg rt) = true →
    (readable rv = true → writesMem (.st rv rt) s (s.reg rt) (s.reg rv)) ∧
    writesMem (.sti imm rt) s (s.reg rt) (widen s.cfg.immExt imm)

/-- A load returns the value of the latest store to the same address, by `st` or `sti`, whatever steps lie between
them, in either byte order; and a word that nothing stores to keeps its initial content (R40, R46, R124 to R126).
A word holds a value when all four of its bytes do (log 8), and unwritten memory has no value (log 2). Rests on
the spec's own decisions D5, D20, D21, D22, D23, D24 (log 11). -/
def Obligations.LoadReturnsStoredWord : Prop :=
  (∀ (s t u : State) (rt rd ra : RegAddr) (v : Word), s.wf = true →
    ((∃ rv, exec (.st rv rt) s = .next t ∧ v = s.reg rv) ∨
      (∃ imm, exec (.sti imm rt) s = .next t ∧ v = widen s.cfg.immExt imm)) →
    StepsWithoutStore (s.reg rt) t u → readable ra = true → writable rd = true →
    u.reg ra = s.reg rt → writesReg (.ld rd ra) u rd v u.icc) ∧
  (∀ (s u : State) (addr : Word), aligned addr = true → StepsWithoutStore addr s u →
    u.mem.readWord u.cfg.byteOrder addr.toNat = s.mem.readWord s.cfg.byteOrder addr.toNat)

/-- A fetch sees every store before it: after `st` or `sti`, the fetch of the very next step, that of any later step
with no other store to the address between, and that of any state with the same memory, gives the stored word
(R49, R125, R126). Rests on the spec's own decisions D5, D20, D25 (log 11). -/
def Obligations.FetchSeesStore : Prop :=
  ∀ (s t : State) (rt : RegAddr) (v : Word),
    ((∃ rv, exec (.st rv rt) s = .next t ∧ v = s.reg rv) ∨
      (∃ imm, exec (.sti imm rt) s = .next t ∧ v = widen s.cfg.immExt imm)) →
    (s.npc = s.reg rt → t.fetchWord = some v) ∧
    (∀ u, StepsWithoutStore (s.reg rt) t u → u.pc = s.reg rt → u.fetchWord = some v) ∧
    (∀ u : State, u.mem = t.mem → u.cfg = s.cfg → u.pc = s.reg rt → u.fetchWord = some v)

/-- Where the Memory forms fault, once their register fields pass: a misaligned address, then one outside
`MEM_VALID`, then, for `ld`, a word that was never written (R43, R159, R160, R161). A word holds a value when all
four of its bytes do (log 8), and unwritten memory has no value (log 2). Rests on the spec's own decisions D22, D23,
D26 (log 11). -/
def Obligations.MemoryFaults : Prop :=
  ∀ (s : State) (rd rv rt : RegAddr) (imm : BitVec 20), readable rt = true → writable rd = true →
    readable rv = true →
    ((s.reg rt).toNat % 4 ≠ 0 → ∀ i ∈ [Instr.ld rd rt, .st rv rt, .sti imm rt],
      exec i s = .fault (.misalignedData (s.reg rt))) ∧
    ((s.reg rt).toNat % 4 = 0 → s.memValid (s.reg rt) = false →
      ∀ i ∈ [Instr.ld rd rt, .st rv rt, .sti imm rt],
        exec i s = .fault (.dataAccessFault (s.reg rt))) ∧
    ((s.reg rt).toNat % 4 = 0 → s.memValid (s.reg rt) = true →
      s.mem.readWord s.cfg.byteOrder (s.reg rt).toNat = none →
      exec (.ld rd rt) s = .fault (.uninitialisedRead (s.reg rt)))

/-! ### Register Window -/

/-- Both Register Window forms (R127, R128, R129): the destinations are checked, `dprev` first; the same non-constant
destination twice faults; otherwise the index moves by one modulo `NWINDOWS`, `dprev` and `dcur` OF THE NEW WINDOW
take the old and the new index, `$icc` takes the layout of the new index, no carry and the wrap, and nothing else
changes. That an index is written modulo 2^32 is the model's choice (log 10). Rests on the spec's own decisions
D7, D8, D9, D10 (log 11). -/
def Obligations.WindowForms : Prop :=
  ∀ (s : State) (dprev dcur : RegAddr), s.wf = true →
    let n := s.cfg.nwindows
    let completes := fun (i : Instr) (new : Nat) (wrap : Bool) =>
      ∃ t, exec i s = .next t ∧ t.cwp = new ∧
        (isGeneral dprev → t.reg dprev = BitVec.ofNat 32 s.cwp) ∧
        (isGeneral dcur → t.reg dcur = BitVec.ofNat 32 new) ∧
        regsKept s t [locate s.cfg new dprev, locate s.cfg new dcur] ∧
        t.icc = iccLayout s.cfg.iccLayout (BitVec.ofNat 32 new) false wrap ∧
        memKept s t ∧ t.cfg = s.cfg ∧ t.psr = s.psr ∧ t.annul = s.annul ∧ t.halted = s.halted ∧
        sequential s t
    (∀ i ∈ [Instr.wdec dprev dcur, .winc dprev dcur],
      (writable dprev = false → exec i s = .fault (.registerFault dprev)) ∧
      (writable dprev = true → writable dcur = false → exec i s = .fault (.registerFault dcur)) ∧
      (isGeneral dprev → dprev = dcur → exec i s = .fault (.windowDestFault dprev))) ∧
    (writable dprev = true → writable dcur = true → (dprev = dcur → isConstant dprev = true) →
      completes (.winc dprev dcur) (if s.cwp = n - 1 then 0 else s.cwp + 1) (decide (s.cwp = n - 1)) ∧
      completes (.wdec dprev dcur) (if s.cwp = 0 then n - 1 else s.cwp - 1) (decide (s.cwp = 0)))

/-- Under `WINDOW_OVERLAP = overlap`, after the index is increased the values left in `$o0` to `$o7` are read as
`$i0` to `$i7`, and after it is decreased the values in `$i0` to `$i7` are read as `$o0` to `$o7`; the destinations
are globals or constants here (R15). Rests on the spec's own decision D7 (log 11). -/
def Obligations.WindowsPassValues : Prop :=
  ∀ (s t : State) (dprev dcur : RegAddr) (k : Nat), s.wf = true → s.cfg.windowOverlap = .overlap →
    k < 8 → (dprev.toNat < 8 ∨ isConstant dprev = true) → (dcur.toNat < 8 ∨ isConstant dcur = true) →
    (exec (.winc dprev dcur) s = .next t →
      t.reg (BitVec.ofNat 6 (0x08 + k)) = s.reg (BitVec.ofNat 6 (0x18 + k))) ∧
    (exec (.wdec dprev dcur) s = .next t →
      t.reg (BitVec.ofNat 6 (0x18 + k)) = s.reg (BitVec.ofNat 6 (0x08 + k)))

/-! ### Jumps -/

/-- The four Link Jump forms: the link `npc + 4` goes to `rd`, the instruction at the old `npc` comes next and the
target after it, never annulled; nothing else changes (R130 to R134). Rests on the spec's own decisions D5, D14,
D15, D16 (log 11). -/
def Obligations.LinkJumpForms : Prop :=
  (∀ (s : State) (rd r1 : RegAddr), s.wf = true → readable r1 = true → writable rd = true →
    jumpsTo (.jl rd r1) s rd (s.reg r1) false ∧
    jumpsTo (.jlr rd r1) s rd (s.npc + s.reg r1) false) ∧
  (∀ (s : State) (rd : RegAddr) (imm : BitVec 20), s.wf = true → writable rd = true →
    jumpsTo (.jli rd imm) s rd (widen s.cfg.immExt imm) false ∧
    jumpsTo (.jlri rd imm) s rd (s.npc + widen s.cfg.immExt imm) false)

/-- The eight Conditional Jump forms when the selected bit of `$icc` equals `JUMP_SENSE`: the link, the delayed
jump, and `annul` as A says; nothing else changes (R135 to R144). Rests on the spec's own decisions D5, D9, D11,
D12, D13, D15, D16 (log 11). -/
def Obligations.ConditionalJumpTaken : Prop :=
  (∀ (s : State) (rd r1 : RegAddr) (type : BitVec 6), s.wf = true → type.toNat < 32 →
    readable r1 = true → writable rd = true → s.icc.getLsbD type.toNat = s.cfg.jumpSense →
    jumpsTo (.jc rd type r1) s rd (s.reg r1) false ∧
    jumpsTo (.jcA rd type r1) s rd (s.reg r1) true ∧
    jumpsTo (.jcr rd type r1) s rd (s.npc + s.reg r1) false ∧
    jumpsTo (.jcrA rd type r1) s rd (s.npc + s.reg r1) true) ∧
  (∀ (s : State) (rd : RegAddr) (type : BitVec 6) (imm : BitVec 13), s.wf = true →
    type.toNat < 32 → writable rd = true → s.icc.getLsbD type.toNat = s.cfg.jumpSense →
    jumpsTo (.jci rd type imm) s rd (widen s.cfg.immExt imm) false ∧
    jumpsTo (.jciA rd type imm) s rd (widen s.cfg.immExt imm) true ∧
    jumpsTo (.jcri rd type imm) s rd (s.npc + widen s.cfg.immExt imm) false ∧
    jumpsTo (.jcriA rd type imm) s rd (s.npc + widen s.cfg.immExt imm) true)

/-- The eight Conditional Jump forms when the selected bit differs from `JUMP_SENSE`: the link under
`LINK_NOT_TAKEN = write`, and nothing written under `skip`; the run goes on in sequence, the next instruction
annulled only for A = 1 under `ANNUL_NOT_TAKEN = annul` (R135, R136). Rests on the spec's own decisions D5, D9,
D11, D12, D13, D15, D16 (log 11). -/
def Obligations.ConditionalJumpNotTaken : Prop :=
  let fallsThrough := fun (i : Instr) (s : State) (rd : RegAddr) (an : Bool) =>
    ∃ t, exec i s = .next t ∧
      (s.cfg.linkNotTaken = .write → regWritten s t rd (s.npc + 4)) ∧
      (s.cfg.linkNotTaken = .skip → regsKept s t []) ∧
      t.icc = s.icc ∧ memKept s t ∧ t.cfg = s.cfg ∧ t.cwp = s.cwp ∧ t.psr = s.psr ∧
      t.halted = s.halted ∧ sequential s t ∧
      t.annul = (if an = true ∧ s.cfg.annulNotTaken = .annul then true else s.annul)
  (∀ (s : State) (rd r1 : RegAddr) (type : BitVec 6), s.wf = true → type.toNat < 32 →
    readable r1 = true → writable rd = true → s.icc.getLsbD type.toNat ≠ s.cfg.jumpSense →
    fallsThrough (.jc rd type r1) s rd false ∧ fallsThrough (.jcA rd type r1) s rd true ∧
    fallsThrough (.jcr rd type r1) s rd false ∧ fallsThrough (.jcrA rd type r1) s rd true) ∧
  (∀ (s : State) (rd : RegAddr) (type : BitVec 6) (imm : BitVec 13), s.wf = true →
    type.toNat < 32 → writable rd = true → s.icc.getLsbD type.toNat ≠ s.cfg.jumpSense →
    fallsThrough (.jci rd type imm) s rd false ∧ fallsThrough (.jciA rd type imm) s rd true ∧
    fallsThrough (.jcri rd type imm) s rd false ∧ fallsThrough (.jcriA rd type imm) s rd true)

/-- Where the jumps fault: a `type` of 32 or more before any register is looked at, then an unreadable `r1`, then
an unwritable `rd`, taken or not (R130, R135, R136, R161). The spec raises the fault of `type` at decode; that
`exec` raises it too is the model's choice (log 13). Rests on the spec's own decisions D5, D9, D11, D12, D13, D14,
D15, D16, D26 (log 11). -/
def Obligations.JumpFaults : Prop :=
  ∀ (s : State) (rd r1 : RegAddr) (type : BitVec 6) (imm : BitVec 13) (imm20 : BitVec 20),
    let condReg := [Instr.jc rd type r1, .jcA rd type r1, .jcr rd type r1, .jcrA rd type r1]
    let condImm := [Instr.jci rd type imm, .jciA rd type imm, .jcri rd type imm, .jcriA rd type imm]
    (32 ≤ type.toNat → ∀ i ∈ condReg ++ condImm, exec i s = .fault (.iccBitFault type)) ∧
    (readable r1 = false →
      (∀ i ∈ [Instr.jl rd r1, .jlr rd r1], exec i s = .fault (.registerFault r1)) ∧
      (type.toNat < 32 → ∀ i ∈ condReg, exec i s = .fault (.registerFault r1))) ∧
    (writable rd = false →
      (∀ i ∈ [Instr.jli rd imm20, .jlri rd imm20], exec i s = .fault (.registerFault rd)) ∧
      (type.toNat < 32 → ∀ i ∈ condImm, exec i s = .fault (.registerFault rd)) ∧
      (readable r1 = true → ∀ i ∈ [Instr.jl rd r1, .jlr rd r1], exec i s = .fault (.registerFault rd)) ∧
      (readable r1 = true → type.toNat < 32 → ∀ i ∈ condReg, exec i s = .fault (.registerFault rd)))

/-! ### Load Immediate, No-op, Halt and the register faults -/

/-- `li` loads the widened 22-bit immediate and changes nothing else (R145). Rests on the spec's own decision D5
(log 11). -/
def Obligations.LoadImmediateForm : Prop :=
  ∀ (s : State) (rd : RegAddr) (imm : BitVec 22), s.wf = true → writable rd = true →
    writesReg (.li rd imm) s rd (widen s.cfg.immExt imm) s.icc

/-- `nop` only moves `pc` and `npc`; `halt` only sets `halted` (R76, R146). Rests on the spec's own decisions D3,
D28 (log 11). -/
def Obligations.NopAndHaltForms : Prop :=
  ∀ s : State, exec .nop s = .next { s with pc := s.npc, npc := s.npc + 4 } ∧
    exec .halt s = .next { s with halted := true }

/-- The register faults of the three-operand forms, `li`, and the Memory forms, sources before destinations and the
highest field first (R155, R161). `pop` and `popi` as constructors are the model's choice (log 9), and so is what
`exec` does with a form that the setting of `LOGIC2_MAP` does not decode (log 13). Rests on the spec's own decisions
D6, D26 (log 11). -/
def Obligations.RegisterFaultOrder : Prop :=
  ∀ (s : State) (rd r1 r2 : RegAddr) (imm : BitVec 13) (imm20 : BitVec 20) (imm22 : BitVec 22),
    let rrr := [Instr.sub rd r1 r2, .subcc rd r1 r2, .add rd r1 r2, .addcc rd r1 r2, .or rd r1 r2,
      .and rd r1 r2, .xor rd r1 r2, .not rd r1 r2, .nor rd r1 r2, .nand rd r1 r2, .lz rd r1 r2,
      .pop rd r1 r2, .shl rd r1 r2, .shr rd r1 r2, .shlx rd r1 r2, .shrx rd r1 r2, .rol rd r1 r2,
      .ror rd r1 r2]
    let i13 := [Instr.subi rd imm r2, .subcci rd imm r2, .addi rd imm r2, .addcci rd imm r2,
      .ori rd imm r2, .andi rd imm r2, .xori rd imm r2, .noti rd imm r2, .nori rd imm r2,
      .nandi rd imm r2, .lzi rd imm r2, .popi rd imm r2, .shli rd imm r2, .shri rd imm r2,
      .shlxi rd imm r2, .shrxi rd imm r2, .roli rd imm r2, .rori rd imm r2]
    (readable r1 = false → ∀ i ∈ rrr, exec i s = .fault (.registerFault r1)) ∧
    (readable r1 = true → readable r2 = false → ∀ i ∈ rrr, exec i s = .fault (.registerFault r2)) ∧
    (readable r1 = true → readable r2 = true → writable rd = false →
      ∀ i ∈ rrr, exec i s = .fault (.registerFault rd)) ∧
    (readable r2 = false → ∀ i ∈ i13, exec i s = .fault (.registerFault r2)) ∧
    (readable r2 = true → writable rd = false → ∀ i ∈ i13, exec i s = .fault (.registerFault rd)) ∧
    (writable rd = false → exec (.li rd imm22) s = .fault (.registerFault rd)) ∧
    (readable r2 = false → ∀ i ∈ [Instr.ld rd r2, .sti imm20 r2],
      exec i s = .fault (.registerFault r2)) ∧
    (readable r2 = true → writable rd = false → exec (.ld rd r2) s = .fault (.registerFault rd)) ∧
    (readable r1 = false → exec (.st r1 r2) s = .fault (.registerFault r1)) ∧
    (readable r1 = true → readable r2 = false → exec (.st r1 r2) s = .fault (.registerFault r2))
end

