-- ==== Sys2Proof/Laws/Encoding.lean ====
section
/-! SUPPORT. The fields of the packed words: what the decoder reads from each format (R55 to R64). -/

namespace Sys2Proof

/-- A field of a word is `v` when its bits are the bits of `v`. -/
theorem field_eq {w : Word} {lo len : Nat} {v : BitVec len}
    (h : ∀ i, i < len → w.getLsbD (lo + i) = v.getLsbD i) : field w lo len = v := by
  ext i hi
  rw [field, BitVec.getElem_extractLsb', h i hi, BitVec.getLsbD_eq_getElem hi]

section Pack

variable (op : BitVec 4) (m m1 m0 : Bool) (rd r1 r2 : RegAddr) (i13 : BitVec 13) (i20 : BitVec 20)
  (i22 : BitVec 22)

theorem packRRR_op : fieldOp (packRRR op m1 m0 rd r1 r2) = op := by
  refine field_eq fun i hi => ?_
  simp only [packRRR, BitVec.getLsbD_append]
  repeat' split
  all_goals first
    | omega
    | (congr 1; omega)

theorem packRRR_bit27 : bitOf (packRRR op m1 m0 rd r1 r2) 27 = false := by
  simp only [bitOf, packRRR, BitVec.getLsbD_append]
  simp

theorem packRRR_bit26 : bitOf (packRRR op m1 m0 rd r1 r2) 26 = m1 := by
  simp only [bitOf, packRRR, BitVec.getLsbD_append]
  simp

theorem packRRR_bit25 : bitOf (packRRR op m1 m0 rd r1 r2) 25 = m0 := by
  simp only [bitOf, packRRR, BitVec.getLsbD_append]
  simp

theorem packRRR_r1 : fieldR1 (packRRR op m1 m0 rd r1 r2) = r1 := by
  refine field_eq fun i hi => ?_
  simp only [packRRR, BitVec.getLsbD_append]
  repeat' split
  all_goals first
    | omega
    | (congr 1; omega)

theorem packRRR_r2 : fieldR2 (packRRR op m1 m0 rd r1 r2) = r2 := by
  refine field_eq fun i hi => ?_
  simp only [packRRR, BitVec.getLsbD_append]
  repeat' split
  all_goals first
    | omega
    | (congr 1; omega)

theorem packRRR_rd : fieldRd (packRRR op m1 m0 rd r1 r2) = rd := by
  refine field_eq fun i hi => ?_
  simp only [packRRR, BitVec.getLsbD_append]
  repeat' split
  all_goals first
    | omega
    | (congr 1; omega)

theorem packI13_op : fieldOp (packI13 op m1 m0 rd i13 r2) = op := by
  refine field_eq fun i hi => ?_
  simp only [packI13, BitVec.getLsbD_append]
  repeat' split
  all_goals first
    | omega
    | (congr 1; omega)

theorem packI13_bit27 : bitOf (packI13 op m1 m0 rd i13 r2) 27 = true := by
  simp only [bitOf, packI13, BitVec.getLsbD_append]
  simp

theorem packI13_bit26 : bitOf (packI13 op m1 m0 rd i13 r2) 26 = m1 := by
  simp only [bitOf, packI13, BitVec.getLsbD_append]
  simp

theorem packI13_bit25 : bitOf (packI13 op m1 m0 rd i13 r2) 25 = m0 := by
  simp only [bitOf, packI13, BitVec.getLsbD_append]
  simp

theorem packI13_imm13 : fieldImm13 (packI13 op m1 m0 rd i13 r2) = i13 := by
  refine field_eq fun i hi => ?_
  simp only [packI13, BitVec.getLsbD_append]
  repeat' split
  all_goals first
    | omega
    | (congr 1; omega)

theorem packI13_r2 : fieldR2 (packI13 op m1 m0 rd i13 r2) = r2 := by
  refine field_eq fun i hi => ?_
  simp only [packI13, BitVec.getLsbD_append]
  repeat' split
  all_goals first
    | omega
    | (congr 1; omega)

theorem packI13_rd : fieldRd (packI13 op m1 m0 rd i13 r2) = rd := by
  refine field_eq fun i hi => ?_
  simp only [packI13, BitVec.getLsbD_append]
  repeat' split
  all_goals first
    | omega
    | (congr 1; omega)

theorem packM2_op : fieldOp (packM2 op m r2 rd) = op := by
  refine field_eq fun i hi => ?_
  simp only [packM2, BitVec.getLsbD_append]
  repeat' split
  all_goals first
    | omega
    | (congr 1; omega)

theorem packM2_bit27 : bitOf (packM2 op m r2 rd) 27 = false := by
  simp only [bitOf, packM2, BitVec.getLsbD_append]
  simp

theorem packM2_bit26 : bitOf (packM2 op m r2 rd) 26 = m := by
  simp only [bitOf, packM2, BitVec.getLsbD_append]
  simp

theorem packM2_r2 : fieldR2 (packM2 op m r2 rd) = r2 := by
  refine field_eq fun i hi => ?_
  simp only [packM2, BitVec.getLsbD_append]
  repeat' split
  all_goals first
    | omega
    | (congr 1; omega)

theorem packM2_rd : fieldRd (packM2 op m r2 rd) = rd := by
  refine field_eq fun i hi => ?_
  simp only [packM2, BitVec.getLsbD_append]
  repeat' split
  all_goals first
    | omega
    | (congr 1; omega)

theorem packI20_op : fieldOp (packI20 op m i20 rd) = op := by
  refine field_eq fun i hi => ?_
  simp only [packI20, BitVec.getLsbD_append]
  repeat' split
  all_goals first
    | omega
    | (congr 1; omega)

theorem packI20_bit27 : bitOf (packI20 op m i20 rd) 27 = true := by
  simp only [bitOf, packI20, BitVec.getLsbD_append]
  simp

theorem packI20_bit26 : bitOf (packI20 op m i20 rd) 26 = m := by
  simp only [bitOf, packI20, BitVec.getLsbD_append]
  simp

theorem packI20_imm20 : fieldImm20 (packI20 op m i20 rd) = i20 := by
  refine field_eq fun i hi => ?_
  simp only [packI20, BitVec.getLsbD_append]
  repeat' split
  all_goals first
    | omega
    | (congr 1; omega)

theorem packI20_rd : fieldRd (packI20 op m i20 rd) = rd := by
  refine field_eq fun i hi => ?_
  simp only [packI20, BitVec.getLsbD_append]
  repeat' split
  all_goals first
    | omega
    | (congr 1; omega)

theorem packW_op : fieldOp (packW m r2 rd) = 0x7#4 := by
  refine field_eq fun i hi => ?_
  simp only [packW, BitVec.getLsbD_append]
  repeat' split
  all_goals first
    | omega
    | (congr 1; omega)

theorem packW_bit27 : bitOf (packW m r2 rd) 27 = m := by
  simp only [bitOf, packW, BitVec.getLsbD_append]
  simp

theorem packW_r2 : fieldR2 (packW m r2 rd) = r2 := by
  refine field_eq fun i hi => ?_
  simp only [packW, BitVec.getLsbD_append]
  repeat' split
  all_goals first
    | omega
    | (congr 1; omega)

theorem packW_rd : fieldRd (packW m r2 rd) = rd := by
  refine field_eq fun i hi => ?_
  simp only [packW, BitVec.getLsbD_append]
  repeat' split
  all_goals first
    | omega
    | (congr 1; omega)

theorem packLI_op : fieldOp (packLI i22 rd) = 0xA#4 := by
  refine field_eq fun i hi => ?_
  simp only [packLI, BitVec.getLsbD_append]
  repeat' split
  all_goals first
    | omega
    | (congr 1; omega)

theorem packLI_imm22 : fieldImm22 (packLI i22 rd) = i22 := by
  refine field_eq fun i hi => ?_
  simp only [packLI, BitVec.getLsbD_append]
  repeat' split
  all_goals first
    | omega
    | (congr 1; omega)

theorem packLI_rd : fieldRd (packLI i22 rd) = rd := by
  refine field_eq fun i hi => ?_
  simp only [packLI, BitVec.getLsbD_append]
  repeat' split
  all_goals first
    | omega
    | (congr 1; omega)

end Pack

end Sys2Proof
end

