-- ==== Sys2Proof/Laws/State.lean ====
section
/-! SUPPORT. One lemma per field of the state per update of it. -/

namespace Sys2Proof.Machine

@[simp] theorem storeWord_cfg (s : State) (addr v : Word) : (s.storeWord addr v).cfg = s.cfg := rfl
@[simp] theorem storeWord_globals (s : State) (addr v : Word) : (s.storeWord addr v).globals = s.globals :=
  rfl
@[simp] theorem storeWord_inputs (s : State) (addr v : Word) : (s.storeWord addr v).inputs = s.inputs := rfl
@[simp] theorem storeWord_locals (s : State) (addr v : Word) : (s.storeWord addr v).locals = s.locals := rfl
@[simp] theorem storeWord_outputs (s : State) (addr v : Word) : (s.storeWord addr v).outputs = s.outputs :=
  rfl
@[simp] theorem storeWord_cwp (s : State) (addr v : Word) : (s.storeWord addr v).cwp = s.cwp := rfl
@[simp] theorem storeWord_icc (s : State) (addr v : Word) : (s.storeWord addr v).icc = s.icc := rfl
@[simp] theorem storeWord_pc (s : State) (addr v : Word) : (s.storeWord addr v).pc = s.pc := rfl
@[simp] theorem storeWord_npc (s : State) (addr v : Word) : (s.storeWord addr v).npc = s.npc := rfl
@[simp] theorem storeWord_psr (s : State) (addr v : Word) : (s.storeWord addr v).psr = s.psr := rfl
@[simp] theorem storeWord_annul (s : State) (addr v : Word) : (s.storeWord addr v).annul = s.annul := rfl
@[simp] theorem storeWord_halted (s : State) (addr v : Word) : (s.storeWord addr v).halted = s.halted := rfl
@[simp] theorem storeWord_mem (s : State) (addr v : Word) : (s.storeWord addr v).mem = s.mem.writeWord s.cfg.byteOrder addr.toNat v :=
  rfl

@[simp] theorem setIcc_cfg (s : State) (v : Word) : (s.setIcc v).cfg = s.cfg := rfl
@[simp] theorem setIcc_globals (s : State) (v : Word) : (s.setIcc v).globals = s.globals := rfl
@[simp] theorem setIcc_inputs (s : State) (v : Word) : (s.setIcc v).inputs = s.inputs := rfl
@[simp] theorem setIcc_locals (s : State) (v : Word) : (s.setIcc v).locals = s.locals := rfl
@[simp] theorem setIcc_outputs (s : State) (v : Word) : (s.setIcc v).outputs = s.outputs := rfl
@[simp] theorem setIcc_cwp (s : State) (v : Word) : (s.setIcc v).cwp = s.cwp := rfl
@[simp] theorem setIcc_icc (s : State) (v : Word) : (s.setIcc v).icc = v := rfl
@[simp] theorem setIcc_pc (s : State) (v : Word) : (s.setIcc v).pc = s.pc := rfl
@[simp] theorem setIcc_npc (s : State) (v : Word) : (s.setIcc v).npc = s.npc := rfl
@[simp] theorem setIcc_psr (s : State) (v : Word) : (s.setIcc v).psr = s.psr := rfl
@[simp] theorem setIcc_annul (s : State) (v : Word) : (s.setIcc v).annul = s.annul := rfl
@[simp] theorem setIcc_halted (s : State) (v : Word) : (s.setIcc v).halted = s.halted := rfl
@[simp] theorem setIcc_mem (s : State) (v : Word) : (s.setIcc v).mem = s.mem := rfl

@[simp] theorem setCwp_cfg (s : State) (w : Nat) : (s.setCwp w).cfg = s.cfg := rfl
@[simp] theorem setCwp_globals (s : State) (w : Nat) : (s.setCwp w).globals = s.globals := rfl
@[simp] theorem setCwp_inputs (s : State) (w : Nat) : (s.setCwp w).inputs = s.inputs := rfl
@[simp] theorem setCwp_locals (s : State) (w : Nat) : (s.setCwp w).locals = s.locals := rfl
@[simp] theorem setCwp_outputs (s : State) (w : Nat) : (s.setCwp w).outputs = s.outputs := rfl
@[simp] theorem setCwp_cwp (s : State) (w : Nat) : (s.setCwp w).cwp = w := rfl
@[simp] theorem setCwp_icc (s : State) (w : Nat) : (s.setCwp w).icc = s.icc := rfl
@[simp] theorem setCwp_pc (s : State) (w : Nat) : (s.setCwp w).pc = s.pc := rfl
@[simp] theorem setCwp_npc (s : State) (w : Nat) : (s.setCwp w).npc = s.npc := rfl
@[simp] theorem setCwp_psr (s : State) (w : Nat) : (s.setCwp w).psr = s.psr := rfl
@[simp] theorem setCwp_annul (s : State) (w : Nat) : (s.setCwp w).annul = s.annul := rfl
@[simp] theorem setCwp_halted (s : State) (w : Nat) : (s.setCwp w).halted = s.halted := rfl
@[simp] theorem setCwp_mem (s : State) (w : Nat) : (s.setCwp w).mem = s.mem := rfl

@[simp] theorem advance_cfg (s : State) : (s.advance).cfg = s.cfg := rfl
@[simp] theorem advance_globals (s : State) : (s.advance).globals = s.globals := rfl
@[simp] theorem advance_inputs (s : State) : (s.advance).inputs = s.inputs := rfl
@[simp] theorem advance_locals (s : State) : (s.advance).locals = s.locals := rfl
@[simp] theorem advance_outputs (s : State) : (s.advance).outputs = s.outputs := rfl
@[simp] theorem advance_cwp (s : State) : (s.advance).cwp = s.cwp := rfl
@[simp] theorem advance_icc (s : State) : (s.advance).icc = s.icc := rfl
@[simp] theorem advance_pc (s : State) : (s.advance).pc = s.npc := rfl
@[simp] theorem advance_npc (s : State) : (s.advance).npc = s.npc + 4 := rfl
@[simp] theorem advance_psr (s : State) : (s.advance).psr = s.psr := rfl
@[simp] theorem advance_annul (s : State) : (s.advance).annul = s.annul := rfl
@[simp] theorem advance_halted (s : State) : (s.advance).halted = s.halted := rfl
@[simp] theorem advance_mem (s : State) : (s.advance).mem = s.mem := rfl

@[simp] theorem jump_cfg (s : State) (t : Word) (a : Bool) : (s.jump t a).cfg = s.cfg := rfl
@[simp] theorem jump_globals (s : State) (t : Word) (a : Bool) : (s.jump t a).globals = s.globals := rfl
@[simp] theorem jump_inputs (s : State) (t : Word) (a : Bool) : (s.jump t a).inputs = s.inputs := rfl
@[simp] theorem jump_locals (s : State) (t : Word) (a : Bool) : (s.jump t a).locals = s.locals := rfl
@[simp] theorem jump_outputs (s : State) (t : Word) (a : Bool) : (s.jump t a).outputs = s.outputs := rfl
@[simp] theorem jump_cwp (s : State) (t : Word) (a : Bool) : (s.jump t a).cwp = s.cwp := rfl
@[simp] theorem jump_icc (s : State) (t : Word) (a : Bool) : (s.jump t a).icc = s.icc := rfl
@[simp] theorem jump_pc (s : State) (t : Word) (a : Bool) : (s.jump t a).pc = s.npc := rfl
@[simp] theorem jump_npc (s : State) (t : Word) (a : Bool) : (s.jump t a).npc = t := rfl
@[simp] theorem jump_psr (s : State) (t : Word) (a : Bool) : (s.jump t a).psr = s.psr := rfl
@[simp] theorem jump_annul (s : State) (t : Word) (a : Bool) : (s.jump t a).annul = a := rfl
@[simp] theorem jump_halted (s : State) (t : Word) (a : Bool) : (s.jump t a).halted = s.halted := rfl
@[simp] theorem jump_mem (s : State) (t : Word) (a : Bool) : (s.jump t a).mem = s.mem := rfl

@[simp] theorem halt_cfg (s : State) : (s.halt).cfg = s.cfg := rfl
@[simp] theorem halt_globals (s : State) : (s.halt).globals = s.globals := rfl
@[simp] theorem halt_inputs (s : State) : (s.halt).inputs = s.inputs := rfl
@[simp] theorem halt_locals (s : State) : (s.halt).locals = s.locals := rfl
@[simp] theorem halt_outputs (s : State) : (s.halt).outputs = s.outputs := rfl
@[simp] theorem halt_cwp (s : State) : (s.halt).cwp = s.cwp := rfl
@[simp] theorem halt_icc (s : State) : (s.halt).icc = s.icc := rfl
@[simp] theorem halt_pc (s : State) : (s.halt).pc = s.pc := rfl
@[simp] theorem halt_npc (s : State) : (s.halt).npc = s.npc := rfl
@[simp] theorem halt_psr (s : State) : (s.halt).psr = s.psr := rfl
@[simp] theorem halt_annul (s : State) : (s.halt).annul = s.annul := rfl
@[simp] theorem halt_halted (s : State) : (s.halt).halted = true := rfl
@[simp] theorem halt_mem (s : State) : (s.halt).mem = s.mem := rfl

@[simp] theorem skipAnnulled_cfg (s : State) : (s.skipAnnulled).cfg = s.cfg := rfl
@[simp] theorem skipAnnulled_globals (s : State) : (s.skipAnnulled).globals = s.globals := rfl
@[simp] theorem skipAnnulled_inputs (s : State) : (s.skipAnnulled).inputs = s.inputs := rfl
@[simp] theorem skipAnnulled_locals (s : State) : (s.skipAnnulled).locals = s.locals := rfl
@[simp] theorem skipAnnulled_outputs (s : State) : (s.skipAnnulled).outputs = s.outputs := rfl
@[simp] theorem skipAnnulled_cwp (s : State) : (s.skipAnnulled).cwp = s.cwp := rfl
@[simp] theorem skipAnnulled_icc (s : State) : (s.skipAnnulled).icc = s.icc := rfl
@[simp] theorem skipAnnulled_pc (s : State) : (s.skipAnnulled).pc = s.npc := rfl
@[simp] theorem skipAnnulled_npc (s : State) : (s.skipAnnulled).npc = s.npc + 4 := rfl
@[simp] theorem skipAnnulled_psr (s : State) : (s.skipAnnulled).psr = s.psr := rfl
@[simp] theorem skipAnnulled_annul (s : State) : (s.skipAnnulled).annul = false := rfl
@[simp] theorem skipAnnulled_halted (s : State) : (s.skipAnnulled).halted = s.halted := rfl
@[simp] theorem skipAnnulled_mem (s : State) : (s.skipAnnulled).mem = s.mem := rfl

@[simp] theorem placeFetch_cfg (s : State) (v : Word) : (s.placeFetch v).cfg = s.cfg := rfl
@[simp] theorem placeFetch_globals (s : State) (v : Word) : (s.placeFetch v).globals = s.globals := rfl
@[simp] theorem placeFetch_inputs (s : State) (v : Word) : (s.placeFetch v).inputs = s.inputs := rfl
@[simp] theorem placeFetch_locals (s : State) (v : Word) : (s.placeFetch v).locals = s.locals := rfl
@[simp] theorem placeFetch_outputs (s : State) (v : Word) : (s.placeFetch v).outputs = s.outputs := rfl
@[simp] theorem placeFetch_cwp (s : State) (v : Word) : (s.placeFetch v).cwp = s.cwp := rfl
@[simp] theorem placeFetch_icc (s : State) (v : Word) : (s.placeFetch v).icc = s.icc := rfl
@[simp] theorem placeFetch_pc (s : State) (v : Word) : (s.placeFetch v).pc = s.pc := rfl
@[simp] theorem placeFetch_npc (s : State) (v : Word) : (s.placeFetch v).npc = s.npc := rfl
@[simp] theorem placeFetch_psr (s : State) (v : Word) : (s.placeFetch v).psr = s.psr := rfl
@[simp] theorem placeFetch_annul (s : State) (v : Word) : (s.placeFetch v).annul = false := rfl
@[simp] theorem placeFetch_halted (s : State) (v : Word) : (s.placeFetch v).halted = false := rfl
@[simp] theorem placeFetch_mem (s : State) (v : Word) : (s.placeFetch v).mem = s.mem.writeWord s.cfg.byteOrder s.pc.toNat v :=
  rfl

@[simp] theorem resetWith_cfg (c : Config) (m : Memory) :
    (State.resetWith c m).cfg = c := rfl
@[simp] theorem resetWith_globals (c : Config) (m : Memory) :
    (State.resetWith c m).globals = List.replicate 8 unspecifiedWord := rfl
@[simp] theorem resetWith_inputs (c : Config) (m : Memory) :
    (State.resetWith c m).inputs = List.replicate (inputWords c) unspecifiedWord := rfl
@[simp] theorem resetWith_locals (c : Config) (m : Memory) :
    (State.resetWith c m).locals = List.replicate (16 * c.nwindows) unspecifiedWord := rfl
@[simp] theorem resetWith_outputs (c : Config) (m : Memory) :
    (State.resetWith c m).outputs = List.replicate (8 * c.nwindows) unspecifiedWord := rfl
@[simp] theorem resetWith_cwp (c : Config) (m : Memory) :
    (State.resetWith c m).cwp = c.resetCwp := rfl
@[simp] theorem resetWith_icc (c : Config) (m : Memory) :
    (State.resetWith c m).icc = unspecifiedWord := rfl
@[simp] theorem resetWith_pc (c : Config) (m : Memory) :
    (State.resetWith c m).pc = c.resetPc := rfl
@[simp] theorem resetWith_npc (c : Config) (m : Memory) :
    (State.resetWith c m).npc = c.resetPc + 4 := rfl
@[simp] theorem resetWith_psr (c : Config) (m : Memory) :
    (State.resetWith c m).psr = unspecifiedWord := rfl
@[simp] theorem resetWith_annul (c : Config) (m : Memory) :
    (State.resetWith c m).annul = false := rfl
@[simp] theorem resetWith_halted (c : Config) (m : Memory) :
    (State.resetWith c m).halted = false := rfl
@[simp] theorem resetWith_mem (c : Config) (m : Memory) :
    (State.resetWith c m).mem = m := rfl

/-! A general register is written: the fields outside the four banks stay. -/

@[simp] theorem writeLoc_cfg (s : State) (l : Loc) (v : Word) : (s.writeLoc l v).cfg = s.cfg := by
  cases l <;> rfl
@[simp] theorem setReg_cfg (s : State) (a : RegAddr) (v : Word) : (s.setReg a v).cfg = s.cfg :=
  writeLoc_cfg s _ v
@[simp] theorem writeLoc_globals_length (s : State) (l : Loc) (v : Word) :
    (s.writeLoc l v).globals.length = s.globals.length := by cases l <;> simp [State.writeLoc]
@[simp] theorem setReg_globals_length (s : State) (a : RegAddr) (v : Word) :
    (s.setReg a v).globals.length = s.globals.length := by simp [State.setReg]
@[simp] theorem writeLoc_inputs_length (s : State) (l : Loc) (v : Word) :
    (s.writeLoc l v).inputs.length = s.inputs.length := by cases l <;> simp [State.writeLoc]
@[simp] theorem setReg_inputs_length (s : State) (a : RegAddr) (v : Word) :
    (s.setReg a v).inputs.length = s.inputs.length := by simp [State.setReg]
@[simp] theorem writeLoc_locals_length (s : State) (l : Loc) (v : Word) :
    (s.writeLoc l v).locals.length = s.locals.length := by cases l <;> simp [State.writeLoc]
@[simp] theorem setReg_locals_length (s : State) (a : RegAddr) (v : Word) :
    (s.setReg a v).locals.length = s.locals.length := by simp [State.setReg]
@[simp] theorem writeLoc_outputs_length (s : State) (l : Loc) (v : Word) :
    (s.writeLoc l v).outputs.length = s.outputs.length := by cases l <;> simp [State.writeLoc]
@[simp] theorem setReg_outputs_length (s : State) (a : RegAddr) (v : Word) :
    (s.setReg a v).outputs.length = s.outputs.length := by simp [State.setReg]
@[simp] theorem writeLoc_cwp (s : State) (l : Loc) (v : Word) : (s.writeLoc l v).cwp = s.cwp := by
  cases l <;> rfl
@[simp] theorem setReg_cwp (s : State) (a : RegAddr) (v : Word) : (s.setReg a v).cwp = s.cwp :=
  writeLoc_cwp s _ v
@[simp] theorem writeLoc_icc (s : State) (l : Loc) (v : Word) : (s.writeLoc l v).icc = s.icc := by
  cases l <;> rfl
@[simp] theorem setReg_icc (s : State) (a : RegAddr) (v : Word) : (s.setReg a v).icc = s.icc :=
  writeLoc_icc s _ v
@[simp] theorem writeLoc_pc (s : State) (l : Loc) (v : Word) : (s.writeLoc l v).pc = s.pc := by
  cases l <;> rfl
@[simp] theorem setReg_pc (s : State) (a : RegAddr) (v : Word) : (s.setReg a v).pc = s.pc :=
  writeLoc_pc s _ v
@[simp] theorem writeLoc_npc (s : State) (l : Loc) (v : Word) : (s.writeLoc l v).npc = s.npc := by
  cases l <;> rfl
@[simp] theorem setReg_npc (s : State) (a : RegAddr) (v : Word) : (s.setReg a v).npc = s.npc :=
  writeLoc_npc s _ v
@[simp] theorem writeLoc_psr (s : State) (l : Loc) (v : Word) : (s.writeLoc l v).psr = s.psr := by
  cases l <;> rfl
@[simp] theorem setReg_psr (s : State) (a : RegAddr) (v : Word) : (s.setReg a v).psr = s.psr :=
  writeLoc_psr s _ v
@[simp] theorem writeLoc_annul (s : State) (l : Loc) (v : Word) : (s.writeLoc l v).annul = s.annul := by
  cases l <;> rfl
@[simp] theorem setReg_annul (s : State) (a : RegAddr) (v : Word) : (s.setReg a v).annul = s.annul :=
  writeLoc_annul s _ v
@[simp] theorem writeLoc_halted (s : State) (l : Loc) (v : Word) : (s.writeLoc l v).halted = s.halted := by
  cases l <;> rfl
@[simp] theorem setReg_halted (s : State) (a : RegAddr) (v : Word) : (s.setReg a v).halted = s.halted :=
  writeLoc_halted s _ v
@[simp] theorem writeLoc_mem (s : State) (l : Loc) (v : Word) : (s.writeLoc l v).mem = s.mem := by
  cases l <;> rfl
@[simp] theorem setReg_mem (s : State) (a : RegAddr) (v : Word) : (s.setReg a v).mem = s.mem :=
  writeLoc_mem s _ v

end Sys2Proof.Machine
end

