-- ==== Sys2Proof/Laws/Memory.lean ====
section
/-! SUPPORT. The laws of memory: reading back what was written, and the canonical form. -/

namespace Sys2Proof.Machine

/-! ### Bytes -/

theorem readByte_writeByte_same (m : Memory) (a : Nat) (b : Byte) :
    (m.writeByte a b).readByte a = some b := by
  induction m with
  | nil => simp [Memory.writeByte, Memory.readByte]
  | cons c rest ih =>
    obtain ⟨a', b'⟩ := c
    simp only [Memory.writeByte]
    split
    · simp [Memory.readByte]
    · split
      · simp [Memory.readByte]
      · rename_i h1 h2
        simp [Memory.readByte, h2, ih]

theorem readByte_writeByte_other (m : Memory) {a x : Nat} (b : Byte) (h : x ≠ a) :
    (m.writeByte a b).readByte x = m.readByte x := by
  induction m with
  | nil => simp [Memory.writeByte, Memory.readByte, h]
  | cons c rest ih =>
    obtain ⟨a', b'⟩ := c
    simp only [Memory.writeByte]
    split
    · simp [Memory.readByte, h]
    · split
      · rename_i h1 h2
        subst h2
        simp [Memory.readByte, h]
      · simp [Memory.readByte, ih]

theorem readByte_writeByte (m : Memory) (a x : Nat) (b : Byte) :
    (m.writeByte a b).readByte x = if x = a then some b else m.readByte x := by
  split
  · next h => rw [h, readByte_writeByte_same]
  · next h => exact readByte_writeByte_other m b h

/-! ### Words -/

/-- What a byte of memory reads after a word is stored (R42). -/
theorem readByte_writeWord (m : Memory) (o : ByteOrder) (a x : Nat) (v : Word) :
    (m.writeWord o a v).readByte x =
      if a ≤ x ∧ x < a + 4 then some (byteOfWord o v (x - a)) else m.readByte x := by
  simp only [Memory.writeWord, readByte_writeByte]
  by_cases h0 : x = a
  · subst h0; simp
  by_cases h1 : x = a + 1
  · subst h1; simp
  by_cases h2 : x = a + 2
  · subst h2; simp
  by_cases h3 : x = a + 3
  · subst h3; simp
  simp only [h0, h1, h2, h3, if_false]
  rw [if_neg (by omega)]

/-- The bytes of a word make it up again, in either order (R42). -/
theorem wordOfBytes_byteOfWord (o : ByteOrder) (v : Word) :
    wordOfBytes o (byteOfWord o v 0) (byteOfWord o v 1) (byteOfWord o v 2) (byteOfWord o v 3) = v := by
  cases o <;>
  · simp only [wordOfBytes, byteOfWord]
    ext i hi
    simp only [BitVec.getElem_append, BitVec.getElem_extractLsb']
    repeat' split
    all_goals
      rw [← BitVec.getLsbD_eq_getElem]
      congr 1
      omega

theorem readWord_writeWord_same (m : Memory) (o : ByteOrder) (a : Nat) (v : Word) :
    (m.writeWord o a v).readWord o a = some v := by
  have h : ∀ k, k < 4 → (m.writeWord o a v).readByte (a + k) = some (byteOfWord o v k) := by
    intro k hk
    rw [readByte_writeWord, if_pos (by omega)]
    congr 2
    omega
  simp only [Memory.readWord]
  rw [show (m.writeWord o a v).readByte a = some (byteOfWord o v 0) from h 0 (by omega),
    h 1 (by omega), h 2 (by omega), h 3 (by omega)]
  simp [wordOfBytes_byteOfWord]

theorem readWord_writeWord_disjoint (m : Memory) (o o' : ByteOrder) {a x : Nat} (v : Word)
    (h : x + 4 ≤ a ∨ a + 4 ≤ x) : (m.writeWord o a v).readWord o' x = m.readWord o' x := by
  simp only [Memory.readWord, readByte_writeWord]
  rw [if_neg (by omega), if_neg (by omega), if_neg (by omega), if_neg (by omega)]

/-! ### The canonical form -/

/-- The strictly rising lists, without the bound on the addresses. -/
theorem risesAbove_writeByte {lo : Nat} (m : Memory) {a : Nat} (b : Byte) (hlo : lo < a)
    (h : m.risesAbove lo = true) : (m.writeByte a b).risesAbove lo = true := by
  induction m generalizing lo with
  | nil => simp [Memory.writeByte, Memory.risesAbove, hlo]
  | cons c rest ih =>
    obtain ⟨a', b'⟩ := c
    simp only [Memory.risesAbove, Bool.and_eq_true, decide_eq_true_eq] at h
    simp only [Memory.writeByte]
    split
    · simp [Memory.risesAbove, *]
    · split
      · next h2 => subst h2; simp [Memory.risesAbove, h]
      · simp only [Memory.risesAbove, Bool.and_eq_true, decide_eq_true_eq]
        exact ⟨h.1, ih (by omega) h.2⟩

theorem all_writeByte (m : Memory) {a : Nat} (b : Byte) {p : Nat → Bool} (ha : p a = true)
    (h : m.all (fun c => p c.1) = true) : (m.writeByte a b).all (fun c => p c.1) = true := by
  induction m with
  | nil => simp [Memory.writeByte, ha]
  | cons c rest ih =>
    obtain ⟨a', b'⟩ := c
    simp only [List.all_cons, Bool.and_eq_true] at h
    simp only [Memory.writeByte]
    split
    · simp only [List.all_cons, Bool.and_eq_true]; exact ⟨ha, h.1, h.2⟩
    · split
      · simp only [List.all_cons, Bool.and_eq_true]; exact ⟨ha, h.2⟩
      · simp only [List.all_cons, Bool.and_eq_true]; exact ⟨h.1, ih h.2⟩

/-- Storing a byte keeps the canonical form. -/
theorem wf_writeByte {m : Memory} {a : Nat} (b : Byte) (ha : a < 2 ^ 32) (h : m.wf = true) :
    (m.writeByte a b).wf = true := by
  simp only [Memory.wf, Bool.and_eq_true] at h ⊢
  refine ⟨?_, all_writeByte m b (p := fun x => decide (x < 2 ^ 32)) (decide_eq_true ha) h.2⟩
  cases m with
  | nil => simp [Memory.writeByte, Memory.rises, Memory.risesAbove]
  | cons c rest =>
    obtain ⟨a', b'⟩ := c
    have hr : Memory.risesAbove a' rest = true := h.1
    simp only [Memory.writeByte]
    split
    · simp [Memory.rises, Memory.risesAbove, *]
    · split
      · next h2 => subst h2; exact hr
      · exact risesAbove_writeByte rest b (by omega) hr

/-- Storing a word keeps the canonical form. -/
theorem wf_writeWord {m : Memory} (o : ByteOrder) {a : Nat} (v : Word) (ha : a + 3 < 2 ^ 32)
    (h : m.wf = true) : (m.writeWord o a v).wf = true :=
  wf_writeByte _ (by omega) (wf_writeByte _ (by omega) (wf_writeByte _ (by omega)
    (wf_writeByte _ (by omega) h)))

/-- Storing a byte of a word of `MEM_VALID` keeps memory inside it. -/
theorem within_writeByte {m : Memory} {r : List Region} {a : Nat} (b : Byte)
    (ha : validAt r (4 * (a / 4)) = true) (h : m.within r = true) : (m.writeByte a b).within r = true :=
  all_writeByte m b (p := fun x => validAt r (4 * (x / 4))) ha h

/-- Storing an aligned word of `MEM_VALID` keeps memory inside it. -/
theorem within_writeWord {m : Memory} {r : List Region} (o : ByteOrder) {a : Nat} (v : Word)
    (hal : a % 4 = 0) (ha : validAt r a = true) (h : m.within r = true) :
    (m.writeWord o a v).within r = true := by
  have e : ∀ k, k < 4 → validAt r (4 * ((a + k) / 4)) = true := by
    intro k hk
    rwa [show 4 * ((a + k) / 4) = a by omega]
  exact within_writeByte _ (e 3 (by omega)) (within_writeByte _ (e 2 (by omega))
    (within_writeByte _ (e 1 (by omega)) (within_writeByte _ (e 0 (by omega)) h)))

/-- Memory at reset has the canonical form. -/
theorem reset_mem_wf : State.reset.mem.wf = true := rfl

/-- An aligned address leaves room for its word below 2^32. -/
theorem aligned_room {addr : Word} (h : aligned addr = true) : addr.toNat + 3 < 2 ^ 32 := by
  have := addr.isLt
  simp only [aligned, beq_iff_eq] at h
  omega

end Sys2Proof.Machine
end

