-- ==== Sys2Proof/Laws/Registers.lean ====
section
/-! SUPPORT. The laws of registers: where an address leads, and reading after writing (R15, R19, R28, R29). -/

namespace Sys2Proof.Machine

/-! ### The parts of a well-formed state -/

/-- What `State.wf` says, part by part. -/
structure WfParts (s : State) : Prop where
  legal : s.cfg.legal = true
  cwp : s.cwp < s.cfg.nwindows
  globals : s.globals.length = 8
  inputs : s.inputs.length = inputWords s.cfg
  locals : s.locals.length = 16 * s.cfg.nwindows
  outputs : s.outputs.length = 8 * s.cfg.nwindows
  mem : s.mem.wf = true
  within : s.mem.within s.cfg.memValid = true

theorem wf_iff (s : State) : s.wf = true ↔ WfParts s := by
  simp only [State.wf, Bool.and_eq_true, decide_eq_true_eq, beq_iff_eq]
  constructor
  · rintro ⟨⟨⟨⟨⟨⟨⟨h1, h2⟩, h3⟩, h4⟩, h5⟩, h6⟩, h7⟩, h8⟩
    exact ⟨h1, h2, h3, h4, h5, h6, h7, h8⟩
  · rintro ⟨h1, h2, h3, h4, h5, h6, h7, h8⟩
    exact ⟨⟨⟨⟨⟨⟨⟨h1, h2⟩, h3⟩, h4⟩, h5⟩, h6⟩, h7⟩, h8⟩

theorem legal_nwindows {c : Config} (h : c.legal = true) : 2 ≤ c.nwindows := by
  simp only [Config.legal, Bool.and_eq_true, decide_eq_true_eq] at h
  exact h.1.1

/-! ### The window below -/

/-- The index of the window below, without the modulus (R15). -/
theorem window_below {n w : Nat} (hn : 2 ≤ n) (hw : w < n) :
    (w + n - 1) % n = if w = 0 then n - 1 else w - 1 := by
  split
  · next h => subst h; rw [Nat.zero_add, Nat.mod_eq_of_lt (by omega)]
  · rw [show w + n - 1 = (w - 1) + n by omega, Nat.add_mod_right, Nat.mod_eq_of_lt (by omega)]

/-- The index of the window above, without the modulus (R127). -/
theorem window_above {n w : Nat} (hw : w < n) :
    (w + 1) % n = if w + 1 = n then 0 else w + 1 := by
  split
  · next h => rw [h, Nat.mod_self]
  · rw [Nat.mod_eq_of_lt (by omega)]

/-! ### Locations -/

/-- A general register that the state's banks hold. -/
def locHeld (s : State) : Loc → Prop
  | .global k => k < 8
  | .input w k => k < 8 ∧ w < s.cfg.nwindows ∧ s.cfg.windowOverlap = .disjoint
  | .localReg w k => k < 16 ∧ w < s.cfg.nwindows
  | .output w k => k < 8 ∧ w < s.cfg.nwindows
  | .icc | .pc | .npc | .constant _ | .absent => False

/-- A general address names a register that the banks hold (R13, R15). -/
theorem locHeld_locate {s : State} (h : WfParts s) {w : Nat} (hw : w < s.cfg.nwindows) {a : RegAddr}
    (ha : a.toNat < 0x28) : locHeld s (locate s.cfg w a) := by
  have hn := legal_nwindows h.legal
  simp only [locate, locateInput]
  split
  · simpa [locHeld]
  split
  · cases ho : s.cfg.windowOverlap
    · exact ⟨by omega, Nat.mod_lt _ (by omega)⟩
    · exact ⟨by omega, hw, ho⟩
  split
  · exact ⟨by omega, hw⟩
  split
  · exact ⟨by omega, hw⟩
  exact ⟨by omega, hw⟩

theorem readLoc_writeLoc_same {s : State} (h : WfParts s) {l : Loc} (hl : locHeld s l) (v : Word) :
    (s.writeLoc l v).readLoc l = v := by
  cases l with
  | global k =>
    have : k < s.globals.length := by rw [h.globals]; exact hl
    simp [State.writeLoc, State.readLoc, List.getD_eq_getElem?_getD, this]
  | input w k =>
    obtain ⟨h1, h2, h3⟩ := hl
    have : 8 * w + k < s.inputs.length := by rw [h.inputs, inputWords, h3]; dsimp only; omega
    simp [State.writeLoc, State.readLoc, List.getD_eq_getElem?_getD, this]
  | localReg w k =>
    obtain ⟨h1, h2⟩ := hl
    have : 16 * w + k < s.locals.length := by rw [h.locals]; omega
    simp [State.writeLoc, State.readLoc, List.getD_eq_getElem?_getD, this]
  | output w k =>
    obtain ⟨h1, h2⟩ := hl
    have : 8 * w + k < s.outputs.length := by rw [h.outputs]; omega
    simp [State.writeLoc, State.readLoc, List.getD_eq_getElem?_getD, this]
  | icc => exact hl.elim
  | pc => exact hl.elim
  | npc => exact hl.elim
  | constant v => exact hl.elim
  | absent => exact hl.elim

theorem readLoc_writeLoc_other {s : State} {l l' : Loc} (hl : locHeld s l) (hl' : locHeld s l')
    (hne : l' ≠ l) (v : Word) : (s.writeLoc l v).readLoc l' = s.readLoc l' := by
  cases l <;> cases l' <;> first
    | rfl
    | exact hl.elim
    | exact hl'.elim
    | skip
  case global.global k k' =>
    have : k ≠ k' := fun e => hne (by rw [e])
    simp [State.writeLoc, State.readLoc, List.getD_eq_getElem?_getD, this]
  case input.input w k w' k' =>
    obtain ⟨h1, _⟩ := hl
    obtain ⟨h2, _⟩ := hl'
    have : 8 * w + k ≠ 8 * w' + k' := by
      intro e
      obtain rfl : w' = w := by omega
      obtain rfl : k' = k := by omega
      exact hne rfl
    simp [State.writeLoc, State.readLoc, List.getD_eq_getElem?_getD, this]
  case localReg.localReg w k w' k' =>
    obtain ⟨h1, _⟩ := hl
    obtain ⟨h2, _⟩ := hl'
    have : 16 * w + k ≠ 16 * w' + k' := by
      intro e
      obtain rfl : w' = w := by omega
      obtain rfl : k' = k := by omega
      exact hne rfl
    simp [State.writeLoc, State.readLoc, List.getD_eq_getElem?_getD, this]
  case output.output w k w' k' =>
    obtain ⟨h1, _⟩ := hl
    obtain ⟨h2, _⟩ := hl'
    have : 8 * w + k ≠ 8 * w' + k' := by
      intro e
      obtain rfl : w' = w := by omega
      obtain rfl : k' = k := by omega
      exact hne rfl
    simp [State.writeLoc, State.readLoc, List.getD_eq_getElem?_getD, this]

/-- The locations that are no general register read the same after any register write (R29). -/
theorem readLoc_writeLoc_special (s : State) (l : Loc) (v : Word) {l' : Loc}
    (h : ¬ locHeld s l') (h' : ∀ k, l' ≠ .global k) (h1 : ∀ w k, l' ≠ .input w k)
    (h2 : ∀ w k, l' ≠ .localReg w k) (h3 : ∀ w k, l' ≠ .output w k) :
    (s.writeLoc l v).readLoc l' = s.readLoc l' := by
  cases l' <;> first
    | exact absurd rfl (h' _)
    | exact absurd rfl (h1 _ _)
    | exact absurd rfl (h2 _ _)
    | exact absurd rfl (h3 _ _)
    | (cases l <;> rfl)

/-- In one window, two general addresses never name the same register (R13, R14, R15). -/
theorem locate_injective {c : Config} {w : Nat} (hn : 2 ≤ c.nwindows) (hw : w < c.nwindows)
    {a b : RegAddr} (ha : a.toNat < 0x28) (hb : b.toNat < 0x28) (h : locate c w a = locate c w b) :
    a = b := by
  apply BitVec.eq_of_toNat_eq
  simp only [locate, locateInput, window_below hn hw] at h
  cases ho : c.windowOverlap <;> simp only [ho] at h <;>
  · repeat' split at h
    all_goals
      simp only [Loc.global.injEq, Loc.localReg.injEq, Loc.output.injEq, Loc.input.injEq,
        reduceCtorEq] at h <;> omega

/-! ### Registers -/

theorem writable_cases {a : RegAddr} (h : writable a = true) :
    a.toNat < 0x28 ∨ isConstant a = true := by
  simp only [writable, isConstant, Bool.or_eq_true, decide_eq_true_eq] at h ⊢
  tauto

theorem locate_constant {a : RegAddr} (h : isConstant a = true) (c : Config) (w : Nat) :
    ∃ v, locate c w a = .constant v := by
  simp only [isConstant, Bool.or_eq_true, beq_iff_eq] at h
  rcases h with rfl | rfl
  · exact ⟨_, rfl⟩
  · exact ⟨_, rfl⟩

/-- A write to `$c0` or `$c1` is discarded (R19, R29). -/
theorem setReg_constant {a : RegAddr} (h : isConstant a = true) (s : State) (v : Word) :
    s.setReg a v = s := by
  obtain ⟨u, hu⟩ := locate_constant h s.cfg s.cwp
  simp [State.setReg, hu, State.writeLoc]

/-- A general register reads back what was written to it (R28, R29). -/
theorem reg_setReg_same {s : State} (h : s.wf = true) {a : RegAddr} (ha : a.toNat < 0x28) (v : Word) :
    (s.setReg a v).reg a = v := by
  have hp := (wf_iff s).1 h
  simp only [State.reg, setReg_cfg, setReg_cwp]
  exact readLoc_writeLoc_same hp (locHeld_locate hp hp.cwp ha) v

/-- Every other address reads as before a register write (R28, R29). -/
theorem reg_setReg_other {s : State} (h : s.wf = true) {a b : RegAddr} (hne : b ≠ a) (v : Word) :
    (s.setReg a v).reg b = s.reg b := by
  have hp := (wf_iff s).1 h
  simp only [State.reg, setReg_cfg, setReg_cwp]
  by_cases hb : b.toNat < 0x28
  · by_cases ha : a.toNat < 0x28
    · exact readLoc_writeLoc_other (locHeld_locate hp hp.cwp ha) (locHeld_locate hp hp.cwp hb)
        (fun e => hne (locate_injective (legal_nwindows hp.legal) hp.cwp hb ha e)) v
    · have : ∀ v, s.setReg a v = s := by
        intro v
        simp only [State.setReg, locate]
        rw [if_neg (by omega), if_neg (by omega), if_neg (by omega), if_neg (by omega),
          if_neg (by omega)]
        repeat' split
        all_goals rfl
      rw [this]
  · have hl : locate s.cfg s.cwp b = .icc ∨ locate s.cfg s.cwp b = .pc ∨
        locate s.cfg s.cwp b = .npc ∨ (∃ u, locate s.cfg s.cwp b = .constant u) ∨
        locate s.cfg s.cwp b = .absent := by
      simp only [locate]
      rw [if_neg (by omega), if_neg (by omega), if_neg (by omega), if_neg (by omega),
        if_neg (by omega)]
      repeat' split
      all_goals simp
    simp only [State.setReg]
    rcases hl with e | e | e | ⟨u, e⟩ | e <;> rw [e] <;> cases locate s.cfg s.cwp a <;> rfl

/-- A register write keeps a state well-formed. -/
theorem setReg_wf {s : State} (h : s.wf = true) (a : RegAddr) (v : Word) : (s.setReg a v).wf = true := by
  have hp := (wf_iff s).1 h
  exact (wf_iff _).2 ⟨by simpa using hp.legal, by simpa using hp.cwp, by simpa using hp.globals,
    by simpa using hp.inputs, by simpa using hp.locals, by simpa using hp.outputs,
    by simpa using hp.mem, by simpa using hp.within⟩

/-- A store of an aligned word of `MEM_VALID` keeps a state well-formed. -/
theorem storeWord_wf {s : State} (h : s.wf = true) {addr : Word} (v : Word) (ha : aligned addr = true)
    (hv : s.memValid addr = true) : (s.storeWord addr v).wf = true := by
  have hp := (wf_iff s).1 h
  have hm : addr.toNat % 4 = 0 := by simpa [aligned] using ha
  exact (wf_iff _).2 ⟨hp.legal, hp.cwp, hp.globals, hp.inputs, hp.locals, hp.outputs,
    wf_writeWord _ _ (aligned_room ha) hp.mem, within_writeWord _ _ hm hv hp.within⟩

/-- A move of the window index to one of the windows keeps a state well-formed. -/
theorem setCwp_wf {s : State} (h : s.wf = true) {w : Nat} (hw : w < s.cfg.nwindows) :
    (s.setCwp w).wf = true := by
  have hp := (wf_iff s).1 h
  exact (wf_iff _).2 ⟨hp.legal, hw, hp.globals, hp.inputs, hp.locals, hp.outputs, hp.mem, hp.within⟩

@[simp] theorem setIcc_wf (s : State) (v : Word) : (s.setIcc v).wf = s.wf := rfl
@[simp] theorem advance_wf (s : State) : s.advance.wf = s.wf := rfl
@[simp] theorem jump_wf (s : State) (t : Word) (a : Bool) : (s.jump t a).wf = s.wf := rfl
@[simp] theorem halt_wf (s : State) : s.halt.wf = s.wf := rfl
@[simp] theorem skipAnnulled_wf (s : State) : s.skipAnnulled.wf = s.wf := rfl

end Sys2Proof.Machine
end

