-- ==== Sys2Proof/Laws/Operations.lean ====
section
/-! SUPPORT. For each shared operation, once, all it can do: when it answers a next state and which one, and what it
answers when its checks pass. -/

namespace Sys2Proof.Machine

@[simp] theorem raise_ne_next (f : Fault) (t : State) : raise f ≠ .next t := by
  simp [raise]

/-- Two next states are the same outcome when they are the same state. -/
theorem next_eq {a t : State} : (Host.Outcome.next a : Result) = .next t ↔ t = a := by
  rw [Host.Outcome.next.injEq]; exact eq_comm

/-! ### Checks and reads -/

theorem readReg_next {a : RegAddr} {s t : State} {k : Word → Result} :
    readReg a s k = .next t ↔ readable a = true ∧ k (s.reg a) = .next t := by
  unfold readReg; split <;> simp [*]

theorem readReg_ok {a : RegAddr} (h : readable a = true) (s : State) (k : Word → Result) :
    readReg a s k = k (s.reg a) := by simp [readReg, h]

theorem readReg_fault {a : RegAddr} (h : readable a = false) (s : State) (k : Word → Result) :
    readReg a s k = .fault (.registerFault a) := by simp [readReg, h, raise]

theorem wcheck_next {a : RegAddr} {t : State} {k : Result} :
    wcheck a k = .next t ↔ writable a = true ∧ k = .next t := by
  unfold wcheck; split <;> simp [*]

theorem wcheck_ok {a : RegAddr} (h : writable a = true) (k : Result) : wcheck a k = k := by
  simp [wcheck, h]

theorem wcheck_fault {a : RegAddr} (h : writable a = false) (k : Result) :
    wcheck a k = .fault (.registerFault a) := by simp [wcheck, h, raise]

theorem readSource_next {x : Source} {s t : State} {k : Word → Result} :
    readSource x s k = .next t ↔ sourceReadable x = true ∧ k (s.source x) = .next t := by
  cases x <;> simp [readSource, sourceReadable, State.source, readReg_next]

theorem readSource_ok {x : Source} (h : sourceReadable x = true) (s : State) (k : Word → Result) :
    readSource x s k = k (s.source x) := by
  cases x <;> simp_all [readSource, sourceReadable, State.source, readReg]

/-! ### Memory -/

theorem memRead_next {addr : Word} {s t : State} {k : Word → Result} :
    memRead addr s k = .next t ↔ aligned addr = true ∧ s.memValid addr = true ∧
      ∃ v, s.mem.readWord s.cfg.byteOrder addr.toNat = some v ∧ k v = .next t := by
  unfold memRead
  split
  · split
    · split <;> simp [*]
    · simp [*]
  · simp [*]

theorem memRead_ok {addr v : Word} {s : State} (h1 : aligned addr = true) (h2 : s.memValid addr = true)
    (h3 : s.mem.readWord s.cfg.byteOrder addr.toNat = some v) (k : Word → Result) :
    memRead addr s k = k v := by simp [memRead, h1, h2, h3]

theorem memWrite_next {addr v : Word} {s t : State} {k : State → Result} :
    memWrite addr v s k = .next t ↔ aligned addr = true ∧ s.memValid addr = true ∧
      k (s.storeWord addr v) = .next t := by
  unfold memWrite
  split
  · split <;> simp [*]
  · simp [*]

theorem memWrite_ok {addr : Word} {s : State} (h1 : aligned addr = true) (h2 : s.memValid addr = true)
    (v : Word) (k : State → Result) : memWrite addr v s k = k (s.storeWord addr v) := by
  simp [memWrite, h1, h2]

/-! ### The shared meanings -/

theorem threeOperand_next {x : Source} {r2 rd : RegAddr} {s t : State} {k : Word → Word → Result} :
    threeOperand x r2 rd s k = .next t ↔ sourceReadable x = true ∧ readable r2 = true ∧
      writable rd = true ∧ k (s.source x) (s.reg r2) = .next t := by
  simp [threeOperand, readSource_next, readReg_next, wcheck_next]

theorem threeOperand_ok {x : Source} {r2 rd : RegAddr} (hx : sourceReadable x = true)
    (h2 : readable r2 = true) (hd : writable rd = true) (s : State) (k : Word → Word → Result) :
    threeOperand x r2 rd s k = k (s.source x) (s.reg r2) := by
  simp [threeOperand, readSource_ok hx, readReg_ok h2, wcheck_ok hd]

theorem compute_next {f : Word → Word → Word} {rd r2 : RegAddr} {x : Source} {s t : State} :
    compute f rd x r2 s = .next t ↔ sourceReadable x = true ∧ readable r2 = true ∧
      writable rd = true ∧ t = (s.setReg rd (f (s.source x) (s.reg r2))).advance := by
  simp only [compute, threeOperand_next, next_eq]

theorem computeCc_next {f : Word → Word → Word} {icc : Config → Word → Word → Word} {rd r2 : RegAddr}
    {x : Source} {s t : State} :
    computeCc f icc rd x r2 s = .next t ↔ sourceReadable x = true ∧ readable r2 = true ∧
      writable rd = true ∧ t = ((s.setReg rd (f (s.source x) (s.reg r2))).setIcc
        (icc s.cfg (s.source x) (s.reg r2))).advance := by
  simp only [computeCc, threeOperand_next, next_eq]

theorem shift_next {e right : Bool} {rd r2 : RegAddr} {x : Source} {s t : State} :
    shift e right rd x r2 s = .next t ↔ sourceReadable x = true ∧ readable r2 = true ∧
      writable rd = true ∧ ∃ n, shiftCount s.cfg.shiftCount (s.reg r2) = some n ∧
        t = (s.setReg rd (shiftBits (s.source x) n e right)).advance := by
  simp only [shift, threeOperand_next]
  cases shiftCount s.cfg.shiftCount (s.reg r2) <;>
    simp only [next_eq, raise_ne_next, Option.some.injEq, exists_eq_left', reduceCtorEq, false_and,
      exists_false, and_false]

theorem store_next {x : Source} {rt : RegAddr} {s t : State} :
    store x rt s = .next t ↔ sourceReadable x = true ∧ readable rt = true ∧
      aligned (s.reg rt) = true ∧ s.memValid (s.reg rt) = true ∧
        t = (s.storeWord (s.reg rt) (s.source x)).advance := by
  simp only [store, readSource_next, readReg_next, memWrite_next, next_eq]

theorem execLd_next {rd rt : RegAddr} {s t : State} :
    execLd rd rt s = .next t ↔ readable rt = true ∧ writable rd = true ∧
      aligned (s.reg rt) = true ∧ s.memValid (s.reg rt) = true ∧
        ∃ v, s.mem.readWord s.cfg.byteOrder (s.reg rt).toNat = some v ∧
          t = (s.setReg rd v).advance := by
  simp only [execLd, readReg_next, wcheck_next, memRead_next, next_eq]

/-- The state after a Register Window instruction (R127). -/
def windowMoved (adv : Bool) (dprev dcur : RegAddr) (s : State) : State :=
  ((((s.setCwp (windowNext s.cfg.nwindows s.cwp adv)).setReg dprev (BitVec.ofNat 32 s.cwp)).setReg
    dcur (BitVec.ofNat 32 (windowNext s.cfg.nwindows s.cwp adv))).setIcc
      (iccOfWindow s.cfg (windowNext s.cfg.nwindows s.cwp adv)
        (windowWrap s.cfg.nwindows s.cwp adv))).advance

theorem windowMove_next {adv : Bool} {dprev dcur : RegAddr} {s t : State} :
    windowMove adv dprev dcur s = .next t ↔ writable dprev = true ∧ writable dcur = true ∧
      (dprev = dcur → isConstant dprev = true) ∧ t = windowMoved adv dprev dcur s := by
  simp only [windowMove, wcheck_next]
  split
  · next h =>
    simp only [Bool.and_eq_true, decide_eq_true_eq, Bool.not_eq_true'] at h
    obtain ⟨rfl, hc⟩ := h
    simp [hc]
  · next h =>
    simp only [Bool.and_eq_true, decide_eq_true_eq, Bool.not_eq_true', not_and,
      Bool.not_eq_false] at h
    simp only [Host.Outcome.next.injEq, windowMoved]
    constructor
    · rintro ⟨h1, h2, h3⟩; exact ⟨h1, h2, h, h3.symm⟩
    · rintro ⟨h1, h2, _, h3⟩; exact ⟨h1, h2, h3.symm⟩

theorem linkJump_next {rel : Bool} {rd : RegAddr} {x : Source} {s t : State} :
    linkJump rel rd x s = .next t ↔ sourceReadable x = true ∧ writable rd = true ∧
      t = (s.setReg rd (s.npc + 4)).jump (jumpTarget rel s.npc (s.source x)) false := by
  simp only [linkJump, readSource_next, wcheck_next, next_eq]

theorem condJump_next {rel an : Bool} {rd : RegAddr} {type : BitVec 6} {x : Source} {s t : State} :
    condJump rel an rd type x s = .next t ↔ iccBitOk type = true ∧ sourceReadable x = true ∧
      writable rd = true ∧ t = condFlow (jumpTaken s type) rel an (s.source x)
        (condLink (jumpTaken s type) rd s) := by
  unfold condJump
  split <;> simp only [readSource_next, wcheck_next, next_eq, raise_ne_next, true_and, false_and,
    Bool.false_eq_true, *]

/-! ### Fetch and decode -/

theorem fetchCheck_next {s t : State} {k : Result} :
    fetchCheck s k = .next t ↔ aligned s.pc = true ∧ s.memValid s.pc = true ∧ k = .next t := by
  unfold fetchCheck
  split
  · split <;> simp [*]
  · simp [*]

theorem fetch_next {s t : State} {k : Word → Result} :
    fetch s k = .next t ↔ ∃ w, s.fetchWord = some w ∧ k w = .next t := by
  unfold fetch; split <;> simp [*]

theorem decodeThen_next {s t : State} {w : Word} {k : Instr → Result} :
    decodeThen s w k = .next t ↔ ∃ i, decode s.cfg.logic2Map w = .ok i ∧ k i = .next t := by
  unfold decodeThen; split <;> simp [*]

/-- What a step that answers a next state did: a no-op in an annulled slot, or the decoded instruction
(R25). -/
theorem step_next {s t : State} :
    step s = .next t ↔ s.halted = false ∧ aligned s.pc = true ∧ s.memValid s.pc = true ∧
      ((s.annul = true ∧ t = s.skipAnnulled) ∨
        (s.annul = false ∧ ∃ w i, s.fetchWord = some w ∧ decode s.cfg.logic2Map w = .ok i ∧
          exec i s = .next t)) := by
  unfold step
  split
  · simp [*]
  · next h =>
    simp only [Bool.not_eq_true] at h
    simp only [fetchCheck_next, h, true_and]
    cases ha : s.annul <;> simp [fetch_next, decodeThen_next, next_eq, -Host.Outcome.next.injEq]

/-! ### Steps without a store -/

/-- When the next step stores to `addr`, in terms of the word it fetches. -/
theorem storesTo_of_decode {s : State} {addr w : Word} {i : Instr} (hw : s.fetchWord = some w)
    (hd : decode s.cfg.logic2Map w = .ok i) :
    storesTo s addr ↔ s.annul = false ∧
      ∃ rt, ((∃ rv, i = .st rv rt) ∨ (∃ imm, i = .sti imm rt)) ∧ s.reg rt = addr := by
  simp only [storesTo, hw, Option.some.injEq]
  constructor
  · rintro ⟨ha, w', i', rt, rfl, hi, hr⟩
    rw [hd, Except.ok.injEq] at hi
    subst hi
    exact ⟨ha, rt, hr⟩
  · rintro ⟨ha, rt, hr⟩
    exact ⟨ha, w, i, rt, rfl, hd, hr⟩

/-- What every step that stores nothing at `addr` keeps, any number of them keeps. -/
theorem stepsWithoutStore_keeps {P : State → Prop} {addr : Word} {s u : State}
    (hstep : ∀ t v, P t → ¬ storesTo t addr → step t = .next v → P v)
    (h : StepsWithoutStore addr s u) (hs : P s) : P u := by
  induction h with
  | refl => exact hs
  | next _ hn hv ih => exact hstep _ _ ih hn hv

end Sys2Proof.Machine
end

