-- ==== Sys2Proof/Laws/PerInstr.lean ====
section
/-! SUPPORT. Statements about every instruction, one lemma per constructor. -/

namespace Sys2Proof.Laws

/-- The encoding carries the family's opcode in bits 31:28 (R53, R54), whatever the operands and the setting
of `LOGIC2_MAP`. -/
def EncodeOpcode.Statement (i : Instr) : Prop := ∀ m : Logic2Map, fieldOp (encode m i) = i.opcode

namespace EncodeOpcode

theorem nop : Statement .nop := fun m => by cases m <;> decide
theorem sub (rd r1 r2 : RegAddr) : Statement (.sub rd r1 r2) := fun _ => packRRR_op ..
theorem subcc (rd r1 r2 : RegAddr) : Statement (.subcc rd r1 r2) := fun _ => packRRR_op ..
theorem add (rd r1 r2 : RegAddr) : Statement (.add rd r1 r2) := fun _ => packRRR_op ..
theorem addcc (rd r1 r2 : RegAddr) : Statement (.addcc rd r1 r2) := fun _ => packRRR_op ..
theorem subi (rd : RegAddr) (imm13 : BitVec 13) (r2 : RegAddr) : Statement (.subi rd imm13 r2) :=
  fun _ => packI13_op ..
theorem subcci (rd : RegAddr) (imm13 : BitVec 13) (r2 : RegAddr) : Statement (.subcci rd imm13 r2) :=
  fun _ => packI13_op ..
theorem addi (rd : RegAddr) (imm13 : BitVec 13) (r2 : RegAddr) : Statement (.addi rd imm13 r2) :=
  fun _ => packI13_op ..
theorem addcci (rd : RegAddr) (imm13 : BitVec 13) (r2 : RegAddr) : Statement (.addcci rd imm13 r2) :=
  fun _ => packI13_op ..
theorem or (rd r1 r2 : RegAddr) : Statement (.or rd r1 r2) := fun _ => packRRR_op ..
theorem and (rd r1 r2 : RegAddr) : Statement (.and rd r1 r2) := fun _ => packRRR_op ..
theorem xor (rd r1 r2 : RegAddr) : Statement (.xor rd r1 r2) := fun _ => packRRR_op ..
theorem not (rd r1 r2 : RegAddr) : Statement (.not rd r1 r2) := fun _ => packRRR_op ..
theorem ori (rd : RegAddr) (imm13 : BitVec 13) (r2 : RegAddr) : Statement (.ori rd imm13 r2) :=
  fun _ => packI13_op ..
theorem andi (rd : RegAddr) (imm13 : BitVec 13) (r2 : RegAddr) : Statement (.andi rd imm13 r2) :=
  fun _ => packI13_op ..
theorem xori (rd : RegAddr) (imm13 : BitVec 13) (r2 : RegAddr) : Statement (.xori rd imm13 r2) :=
  fun _ => packI13_op ..
theorem noti (rd : RegAddr) (imm13 : BitVec 13) (r2 : RegAddr) : Statement (.noti rd imm13 r2) :=
  fun _ => packI13_op ..
theorem nor (rd r1 r2 : RegAddr) : Statement (.nor rd r1 r2) := fun _ => packRRR_op ..
theorem nand (rd r1 r2 : RegAddr) : Statement (.nand rd r1 r2) := fun _ => packRRR_op ..
theorem lz (rd r1 r2 : RegAddr) : Statement (.lz rd r1 r2) := fun _ => packRRR_op ..
theorem pop (rd r1 r2 : RegAddr) : Statement (.pop rd r1 r2) := fun _ => packRRR_op ..
theorem nori (rd : RegAddr) (imm13 : BitVec 13) (r2 : RegAddr) : Statement (.nori rd imm13 r2) :=
  fun _ => packI13_op ..
theorem nandi (rd : RegAddr) (imm13 : BitVec 13) (r2 : RegAddr) : Statement (.nandi rd imm13 r2) :=
  fun _ => packI13_op ..
theorem lzi (rd : RegAddr) (imm13 : BitVec 13) (r2 : RegAddr) : Statement (.lzi rd imm13 r2) :=
  fun _ => packI13_op ..
theorem popi (rd : RegAddr) (imm13 : BitVec 13) (r2 : RegAddr) : Statement (.popi rd imm13 r2) :=
  fun _ => packI13_op ..
theorem shl (rd r1 r2 : RegAddr) : Statement (.shl rd r1 r2) := fun _ => packRRR_op ..
theorem shr (rd r1 r2 : RegAddr) : Statement (.shr rd r1 r2) := fun _ => packRRR_op ..
theorem shlx (rd r1 r2 : RegAddr) : Statement (.shlx rd r1 r2) := fun _ => packRRR_op ..
theorem shrx (rd r1 r2 : RegAddr) : Statement (.shrx rd r1 r2) := fun _ => packRRR_op ..
theorem shli (rd : RegAddr) (imm13 : BitVec 13) (r2 : RegAddr) : Statement (.shli rd imm13 r2) :=
  fun _ => packI13_op ..
theorem shri (rd : RegAddr) (imm13 : BitVec 13) (r2 : RegAddr) : Statement (.shri rd imm13 r2) :=
  fun _ => packI13_op ..
theorem shlxi (rd : RegAddr) (imm13 : BitVec 13) (r2 : RegAddr) : Statement (.shlxi rd imm13 r2) :=
  fun _ => packI13_op ..
theorem shrxi (rd : RegAddr) (imm13 : BitVec 13) (r2 : RegAddr) : Statement (.shrxi rd imm13 r2) :=
  fun _ => packI13_op ..
theorem rol (rd r1 r2 : RegAddr) : Statement (.rol rd r1 r2) := fun _ => packRRR_op ..
theorem ror (rd r1 r2 : RegAddr) : Statement (.ror rd r1 r2) := fun _ => packRRR_op ..
theorem roli (rd : RegAddr) (imm13 : BitVec 13) (r2 : RegAddr) : Statement (.roli rd imm13 r2) :=
  fun _ => packI13_op ..
theorem rori (rd : RegAddr) (imm13 : BitVec 13) (r2 : RegAddr) : Statement (.rori rd imm13 r2) :=
  fun _ => packI13_op ..
theorem ld (rd rt : RegAddr) : Statement (.ld rd rt) := fun _ => packM2_op ..
theorem st (rv rt : RegAddr) : Statement (.st rv rt) := fun _ => packM2_op ..
theorem sti (imm20 : BitVec 20) (rt : RegAddr) : Statement (.sti imm20 rt) := fun _ => packI20_op ..
theorem wdec (dprev dcur : RegAddr) : Statement (.wdec dprev dcur) := fun _ => packW_op ..
theorem winc (dprev dcur : RegAddr) : Statement (.winc dprev dcur) := fun _ => packW_op ..
theorem jl (rd r1 : RegAddr) : Statement (.jl rd r1) := fun _ => packM2_op ..
theorem jlr (rd r1 : RegAddr) : Statement (.jlr rd r1) := fun _ => packM2_op ..
theorem jli (rd : RegAddr) (imm20 : BitVec 20) : Statement (.jli rd imm20) := fun _ => packI20_op ..
theorem jlri (rd : RegAddr) (imm20 : BitVec 20) : Statement (.jlri rd imm20) := fun _ => packI20_op ..
theorem jc (rd : RegAddr) (type : BitVec 6) (r1 : RegAddr) : Statement (.jc rd type r1) :=
  fun _ => packRRR_op ..
theorem jcA (rd : RegAddr) (type : BitVec 6) (r1 : RegAddr) : Statement (.jcA rd type r1) :=
  fun _ => packRRR_op ..
theorem jcr (rd : RegAddr) (type : BitVec 6) (r1 : RegAddr) : Statement (.jcr rd type r1) :=
  fun _ => packRRR_op ..
theorem jcrA (rd : RegAddr) (type : BitVec 6) (r1 : RegAddr) : Statement (.jcrA rd type r1) :=
  fun _ => packRRR_op ..
theorem jci (rd : RegAddr) (type : BitVec 6) (imm13 : BitVec 13) : Statement (.jci rd type imm13) :=
  fun _ => packI13_op ..
theorem jciA (rd : RegAddr) (type : BitVec 6) (imm13 : BitVec 13) : Statement (.jciA rd type imm13) :=
  fun _ => packI13_op ..
theorem jcri (rd : RegAddr) (type : BitVec 6) (imm13 : BitVec 13) : Statement (.jcri rd type imm13) :=
  fun _ => packI13_op ..
theorem jcriA (rd : RegAddr) (type : BitVec 6) (imm13 : BitVec 13) : Statement (.jcriA rd type imm13) :=
  fun _ => packI13_op ..
theorem li (rd : RegAddr) (imm22 : BitVec 22) : Statement (.li rd imm22) := fun _ => packLI_op ..
theorem halt : Statement .halt := fun m => by cases m <;> decide

end EncodeOpcode

end Sys2Proof.Laws
end

