-- ==== Sys2Proof/Machine/Assembly.lean ====
section
/-! DEFINITION. The register mnemonics (R11, R73) and the notation of the instructions (R74). Neither has an effect
on a run. -/

namespace Sys2Proof

/-- The mnemonic of a register address; 2D and 32 to 3A have none (R11, R73). -/
def registerName (a : RegAddr) : Option String :=
  let n := a.toNat
  if n < 0x08 then some ("$g" ++ toString n)
  else if n < 0x10 then some ("$i" ++ toString (n - 0x08))
  else if n < 0x18 then some ("$l" ++ toString (n - 0x10))
  else if n < 0x20 then some ("$o" ++ toString (n - 0x18))
  else if n < 0x28 then some ("$l" ++ toString (8 + (n - 0x20)))
  else match n with
    | 0x28 => some "$bor"
    | 0x29 => some "$band"
    | 0x2A => some "$bxor"
    | 0x2B => some "$bnot"
    | 0x2C => some "$bnor"
    | 0x2E => some "$bnand"
    | 0x2F => some "$blz"
    | 0x30 => some "$bpop"
    | 0x31 => some "$icc"
    | 0x3B => some "$pc"
    | 0x3C => some "$npc"
    | 0x3D => some "$psr"
    | 0x3E => some "$c0"
    | 0x3F => some "$c1"
    | _ => none

/-- A register as an operand; an address without a mnemonic is written as a number in angle brackets, as the
vectors of the spec do, here in decimal. -/
def showReg (a : RegAddr) : String := (registerName a).getD ("<" ++ toString a.toNat ++ ">")

/-- An immediate as a signed decimal number (R74). -/
def showImm {n : Nat} (v : BitVec n) : String := toString v.toInt

/-- A mnemonic and its operands (R74). -/
def showForm (mnemonic : String) (operands : List String) : String :=
  mnemonic ++ " " ++ String.intercalate ", " operands

/-- The text of an instruction: the destination first, square brackets round a register used as a memory address
(R74). -/
def Instr.assembly (i : Instr) : String :=
  match i with
  | .nop | .halt => i.mnemonic
  | .sub rd r1 r2 | .subcc rd r1 r2 | .add rd r1 r2 | .addcc rd r1 r2 | .or rd r1 r2 | .and rd r1 r2
  | .xor rd r1 r2 | .not rd r1 r2 | .nor rd r1 r2 | .nand rd r1 r2 | .lz rd r1 r2 | .pop rd r1 r2
  | .shl rd r1 r2 | .shr rd r1 r2 | .shlx rd r1 r2 | .shrx rd r1 r2 | .rol rd r1 r2 | .ror rd r1 r2 =>
    showForm i.mnemonic [showReg rd, showReg r1, showReg r2]
  | .subi rd imm r2 | .subcci rd imm r2 | .addi rd imm r2 | .addcci rd imm r2 | .ori rd imm r2
  | .andi rd imm r2 | .xori rd imm r2 | .noti rd imm r2 | .nori rd imm r2 | .nandi rd imm r2
  | .lzi rd imm r2 | .popi rd imm r2 | .shli rd imm r2 | .shri rd imm r2 | .shlxi rd imm r2
  | .shrxi rd imm r2 | .roli rd imm r2 | .rori rd imm r2 =>
    showForm i.mnemonic [showReg rd, showImm imm, showReg r2]
  | .ld rd rt => showForm i.mnemonic [showReg rd, "[" ++ showReg rt ++ "]"]
  | .st rv rt => showForm i.mnemonic [showReg rv, "[" ++ showReg rt ++ "]"]
  | .sti imm rt => showForm i.mnemonic [showImm imm, "[" ++ showReg rt ++ "]"]
  | .wdec dprev dcur | .winc dprev dcur => showForm i.mnemonic [showReg dprev, showReg dcur]
  | .jl rd r1 | .jlr rd r1 => showForm i.mnemonic [showReg rd, showReg r1]
  | .jli rd imm | .jlri rd imm => showForm i.mnemonic [showReg rd, showImm imm]
  | .jc rd type r1 | .jcA rd type r1 | .jcr rd type r1 | .jcrA rd type r1 =>
    showForm i.mnemonic [showReg rd, toString type.toNat, showReg r1]
  | .jci rd type imm | .jciA rd type imm | .jcri rd type imm | .jcriA rd type imm =>
    showForm i.mnemonic [showReg rd, toString type.toNat, showImm imm]
  | .li rd imm => showForm i.mnemonic [showReg rd, showImm imm]

end Sys2Proof
end

