-- ==== Sys2Proof/Tests/Slice0.lean ====
section
/-! SUPPORT. Tests: the well-formedness checks, the decoding of every form, one step of every form, and a state that
meets the hypotheses of every statement. Words and results are the examples of the rules and the vectors of
`95_test_vectors.md`. -/

namespace Sys2Proof.Tests

open Sys2Proof Sys2Proof.Machine

/-! ### Small states -/

/-- The next state of an outcome. -/
def nextOf : Result → Option State
  | .next t => some t
  | _ => none

/-- The fault of an outcome. -/
def faultOf : Result → Option Fault
  | .fault f => some f
  | _ => none

/-- After reset with the parameters `c`, at `pc` = 0x100, with some registers written: the state before of the
spec's vectors. -/
def at100 (c : Config) (regs : List (RegAddr × Word)) : State :=
  regs.foldl (fun s r => s.setReg r.1 r.2)
    { State.resetWith c [] with pc := 0x100, npc := 0x104 }

/-- The state after one step that fetches the word `w`. -/
def stepOf (s : State) (w : Nat) : Option State := nextOf (step (s.withFetchWord 32 w))

/-- The same with the default parameters. -/
def runs (w : Nat) (regs : List (RegAddr × Word)) : Option State := stepOf (at100 .default regs) w

/-- The registers `$g1` and `$g2` of the logic examples. -/
def logicRegs : List (RegAddr × Word) := [(1, 0x0F0F00FF), (2, 0x00FF0F0F)]

/-- Default parameters but for `LOGIC2_MAP`. -/
def withMap (m : Logic2Map) : Config := { Config.default with logic2Map := m }

/-- Default parameters but for `MEM_VALID`: the 256 words of the vectors. -/
def smallMemory : Config := { Config.default with memValid := [⟨0, 0x400⟩] }


/-! ### Ill-formed terms are refused -/

theorem test_wf_refuses_type_32 :
    ∀ m ∈ [Logic2Map.literal, .shifted, .strict],
    wellFormed m (.jc 3 32 1) = false ∧ wellFormed m (.jcA 3 32 1) = false ∧
    wellFormed m (.jcr 3 32 1) = false ∧ wellFormed m (.jcrA 3 32 1) = false ∧
    wellFormed m (.jci 3 32 0) = false ∧ wellFormed m (.jciA 3 32 0) = false ∧
    wellFormed m (.jcri 3 32 0) = false ∧ wellFormed m (.jcriA 3 63 0) = false := by decide

theorem test_wf_admits_type_31 :
    wellFormed .literal (.jc 3 31 1) = true ∧ wellFormed .literal (.jcriA 3 31 0) = true := by decide

theorem test_wf_strict_refuses :
    wellFormed .strict (.nand 3 1 2) = false ∧ wellFormed .strict (.nandi 3 0 2) = false ∧
    wellFormed .strict (.lz 3 1 2) = false ∧ wellFormed .strict (.lzi 3 0 2) = false := by decide

theorem test_wf_popcount_only_shifted :
    wellFormed .literal (.pop 3 1 2) = false ∧ wellFormed .strict (.popi 3 0 2) = false ∧
    wellFormed .shifted (.pop 3 1 2) = true := by decide

/-! ### Decoding: the rules' own words -/

theorem test_decode_nop_halt_li :
    decode .literal 0x00000000 = .ok .nop ∧
    decode .literal 0xF0000000 = .ok .halt ∧
    decode .literal 0xA48D1583 = .ok (.li 3 0x123456) := by decide

theorem test_decode_add_subtract :
    decode .literal 0x10001083 = .ok (.sub 3 1 2) ∧
    decode .literal 0x12001083 = .ok (.subcc 3 1 2) ∧
    decode .literal 0x14001083 = .ok (.add 3 1 2) ∧
    decode .literal 0x16001083 = .ok (.addcc 3 1 2) ∧
    decode .literal 0x1800A083 = .ok (.subi 3 10 2) ∧
    decode .literal 0x1BFFF083 = .ok (.subcci 3 0x1FFF 2) ∧
    decode .literal 0x1C00A083 = .ok (.addi 3 10 2) ∧
    decode .literal 0x1FFFF083 = .ok (.addcci 3 0x1FFF 2) := by decide

theorem test_decode_logic1 :
    decode .literal 0x20001083 = .ok (.or 3 1 2) ∧
    decode .literal 0x22001083 = .ok (.and 3 1 2) ∧
    decode .literal 0x24001083 = .ok (.xor 3 1 2) ∧
    decode .literal 0x26001083 = .ok (.not 3 1 2) ∧
    decode .literal 0x280FF083 = .ok (.ori 3 255 2) ∧
    decode .literal 0x2A0FF083 = .ok (.andi 3 255 2) ∧
    decode .literal 0x2C0FF083 = .ok (.xori 3 255 2) ∧
    decode .literal 0x2E0FF083 = .ok (.noti 3 255 2) := by decide

theorem test_decode_logic2 :
    decode .literal 0x30001083 = .ok (.nor 3 1 2) ∧
    decode .literal 0x34001083 = .ok (.nand 3 1 2) ∧
    decode .literal 0x36001F83 = .ok (.lz 3 1 0x3E) ∧
    decode .literal 0x380FF083 = .ok (.nori 3 255 2) ∧
    decode .literal 0x3C0FF083 = .ok (.nandi 3 255 2) ∧
    decode .literal 0x3E0FF083 = .ok (.lzi 3 255 2) := by decide

theorem test_decode_shift :
    decode .literal 0x40001083 = .ok (.shl 3 1 2) ∧
    decode .literal 0x42001083 = .ok (.shr 3 1 2) ∧
    decode .literal 0x44001083 = .ok (.shlx 3 1 2) ∧
    decode .literal 0x46001083 = .ok (.shrx 3 1 2) ∧
    decode .literal 0x49FFE083 = .ok (.shli 3 0x1FFE 2) ∧
    decode .literal 0x4BFFE083 = .ok (.shri 3 0x1FFE 2) ∧
    decode .literal 0x4C003083 = .ok (.shlxi 3 3 2) ∧
    decode .literal 0x4FFFE083 = .ok (.shrxi 3 0x1FFE 2) := by decide

theorem test_decode_rotate :
    decode .literal 0x54001083 = .ok (.rol 3 1 2) ∧
    decode .literal 0x52001083 = .ok (.ror 3 1 2) ∧
    decode .literal 0x59FFE083 = .ok (.roli 3 0x1FFE 2) ∧
    decode .literal 0x5A001083 = .ok (.rori 3 1 2) := by decide

theorem test_decode_memory :
    decode .literal 0x60000043 = .ok (.ld 3 1) ∧
    decode .literal 0x64000081 = .ok (.st 2 1) ∧
    decode .literal 0x6E000001 = .ok (.sti 0x80000 1) := by decide

theorem test_decode_window :
    decode .literal 0x70000146 = .ok (.wdec 5 6) ∧
    decode .literal 0x7FFFF146 = .ok (.winc 5 6) := by decide

theorem test_decode_link_jump :
    decode .literal 0x80000043 = .ok (.jl 3 1) ∧
    decode .literal 0x84000043 = .ok (.jlr 3 1) ∧
    decode .literal 0x88010003 = .ok (.jli 3 0x400) ∧
    decode .literal 0x8FFFBF03 = .ok (.jlri 3 0xFFEFC) := by decide

theorem test_decode_conditional_jump :
    decode .literal 0x90001003 = .ok (.jc 3 0 1) ∧
    decode .literal 0x92001083 = .ok (.jcA 3 2 1) ∧
    decode .literal 0x9400107E = .ok (.jcr 0x3E 1 1) ∧
    decode .literal 0x960010FE = .ok (.jcrA 0x3E 3 1) ∧
    decode .literal 0x99000003 = .ok (.jci 3 0 0x1000) ∧
    decode .literal 0x9A2000FE = .ok (.jciA 0x3E 3 0x200) ∧
    decode .literal 0x9DFF80C3 = .ok (.jcri 3 3 0x1FF8) ∧
    decode .literal 0x9E00C03E = .ok (.jcriA 0x3E 0 12) := by decide

/-- Section 4 of the vectors; the last word is R57 and R89 put together. -/
theorem test_decode_shifted :
    decode .shifted 0x30001083 = .ok (.nor 3 1 2) ∧ decode .shifted 0x32001083 = .ok (.nand 3 1 2) ∧
    decode .shifted 0x34001083 = .ok (.lz 3 1 2) ∧ decode .shifted 0x36001083 = .ok (.pop 3 1 2) ∧
    decode .shifted 0x3E0FF083 = .ok (.popi 3 255 2) := by decide

theorem test_decode_refuses :
    decode .literal 0x00000001 = .error (.reservedEncoding 0x00000001) ∧
    decode .literal 0x32001083 = .error (.reservedEncoding 0x32001083) ∧
    decode .strict 0x34001083 = .error (.reservedEncoding 0x34001083) ∧
    decode .literal 0x68000041 = .error (.reservedEncoding 0x68000041) ∧
    decode .literal 0x9C00C83E = .error (.iccBit 32) ∧
    decode .literal 0xBFFFFFFF = .error (.illegalInstruction 0xBFFFFFFF) := by decide

theorem test_decode_needs_four_bytes : decodeBytes .big .literal [0, 0, 0] = .error .truncated := by decide

theorem test_table_word_layout :
    decodeTableWord 32 0x10001083 = some (.sub 3 1 2) ∧ decodeTableWord 32 0xB0000000 = none := by decide

theorem test_assembly :
    (Instr.subcci 3 0x1FFF 2).assembly = "subcci $g3, -1, $g2" ∧
    (Instr.st 2 1).assembly = "st $g2, [$g1]" ∧
    (Instr.jcriA 0x3E 0 12).assembly = "jcri.a $c0, 0, 12" := by decide +kernel

theorem test_register_names :
    registerName 0x27 = some "$l15" ∧ registerName 0x1D = some "$o5" ∧ registerName 0x2D = none ∧
    registerName 0x2E = some "$bnand" ∧ registerName 0x3A = none := by decide +kernel

/-! ### One step of each form -/

theorem test_nop_advances : (runs 0x00000000 []).map (fun t => (t.pc, t.npc)) = some (0x104, 0x108) := by decide

theorem test_halt_keeps_pc :
    (runs 0xF0000000 []).map (fun t => (t.halted, t.pc, t.npc)) = some (true, 0x100, 0x104) := by decide

theorem test_li_sign : (runs 0xA8000003 []).map (fun t => t.reg 3) = some 0xFFE00000 := by decide

theorem test_sub :
    (runs 0x10001083 [(1, 3), (2, 5)]).map (fun t => (t.reg 3, t.icc)) = some (0xFFFFFFFE, 0xA5A5A5A4) := by decide

theorem test_subcc_zero :
    (runs 0x12001083 [(1, 5), (2, 5)]).map (fun t => (t.reg 3, t.icc)) = some (0, 1) := by decide

theorem test_subcc_overflow :
    (runs 0x12001083 [(1, 0x7FFFFFFF), (2, 0xFFFFFFFF)]).map (fun t => (t.reg 3, t.icc)) =
      some (0x80000000, 0xE) := by decide

theorem test_add_wraps : (runs 0x14001083 [(1, 0xFFFFFFFF), (2, 2)]).map (fun t => t.reg 3) = some 1 := by decide

theorem test_addcc_carry :
    (runs 0x16001083 [(1, 0x80000000), (2, 0x80000000)]).map (fun t => (t.reg 3, t.icc)) = some (0, 0xD) := by decide

theorem test_addcc_reads_icc :
    (runs 0x16031083 [(2, 1)]).map (fun t => (t.reg 3, t.icc)) = some (0xA5A5A5A5, 2) := by decide

theorem test_subi_left_operand : (runs 0x1800A083 [(2, 3)]).map (fun t => t.reg 3) = some 7 := by decide

theorem test_subcci_negative :
    (runs 0x1BFFF083 [(2, 1)]).map (fun t => (t.reg 3, t.icc)) = some (0xFFFFFFFE, 2) := by decide

theorem test_addi : (runs 0x1DFFF083 [(2, 1)]).map (fun t => t.reg 3) = some 0 := by decide

theorem test_addcci : (runs 0x1FFFF083 [(2, 1)]).map (fun t => (t.reg 3, t.icc)) = some (0, 5) := by decide

theorem test_or : (runs 0x20001083 logicRegs).map (fun t => t.reg 3) = some 0x0FFF0FFF := by decide

theorem test_and : (runs 0x22001083 logicRegs).map (fun t => t.reg 3) = some 0x000F000F := by decide

theorem test_xor : (runs 0x24001083 logicRegs).map (fun t => t.reg 3) = some 0x0FF00FF0 := by decide

theorem test_xor_same_register : (runs 0x24001041 [(1, 0xABCD)]).map (fun t => t.reg 1) = some 0 := by decide

theorem test_not : (runs 0x26001083 logicRegs).map (fun t => t.reg 3) = some 0xF0F0FF00 := by decide

theorem test_nor : (runs 0x30001083 logicRegs).map (fun t => t.reg 3) = some 0xF000F000 := by decide

theorem test_nand : (runs 0x34001083 logicRegs).map (fun t => t.reg 3) = some 0xFFF0FFF0 := by decide

theorem test_lz : (runs 0x36001F83 [(1, 0x0F0F00FF)]).map (fun t => t.reg 3) = some 4 := by decide

theorem test_lz_zero : (runs 0x36001F83 [(1, 0)]).map (fun t => t.reg 3) = some 32 := by decide

theorem test_ori : (runs 0x280FF083 [(2, 0xF0F0F0F0)]).map (fun t => t.reg 3) = some 0xF0F0F0FF := by decide

theorem test_andi_sign : (runs 0x2BFFC083 [(2, 0x1237)]).map (fun t => t.reg 3) = some 0x1234 := by decide

theorem test_xori : (runs 0x2C0FF083 [(2, 0xF0F0F0F0)]).map (fun t => t.reg 3) = some 0xF0F0F00F := by decide

theorem test_noti : (runs 0x2E0FF083 [(2, 0xF0F0F0F0)]).map (fun t => t.reg 3) = some 0xFFFFFF00 := by decide

theorem test_nori : (runs 0x380FF083 [(2, 0xF0F0F0F0)]).map (fun t => t.reg 3) = some 0x0F0F0F00 := by decide

theorem test_nandi : (runs 0x3C0FF083 [(2, 0xF0F0F0F0)]).map (fun t => t.reg 3) = some 0xFFFFFF0F := by decide

theorem test_lzi : (runs 0x3E0FF083 [(2, 0xF0F0F0F0)]).map (fun t => t.reg 3) = some 24 := by decide

theorem test_pop_shifted :
    (stepOf (at100 (withMap .shifted) logicRegs) 0x36001083).map (fun t => t.reg 3) = some 16 := by decide

theorem test_popi_shifted :
    (stepOf (at100 (withMap .shifted) logicRegs) 0x3E0FF083).map (fun t => t.reg 3) = some 8 := by decide

theorem test_not_in2 :
    (stepOf (at100 { Config.default with unarySrc := .in2 } logicRegs) 0x26001083).map (fun t => t.reg 3) =
      some 0xFF00F0F0 := by decide

theorem test_shl : (runs 0x40001083 [(1, 0x80000001), (2, 4)]).map (fun t => t.reg 3) = some 0x10 := by decide

theorem test_shl_32 : (runs 0x40001083 [(1, 0x80000001), (2, 32)]).map (fun t => t.reg 3) = some 0 := by decide

theorem test_shr :
    (runs 0x42001083 [(1, 0x80000001), (2, 4)]).map (fun t => t.reg 3) = some 0x08000000 := by decide

theorem test_shlx : (runs 0x44001083 [(1, 0x80000001), (2, 4)]).map (fun t => t.reg 3) = some 0x1F := by decide

theorem test_shlx_zero_fill :
    (runs 0x44001083 [(1, 0x40000002), (2, 4)]).map (fun t => t.reg 3) = some 0x20 := by decide

theorem test_shrx :
    (runs 0x46001083 [(1, 0x80000001), (2, 4)]).map (fun t => t.reg 3) = some 0xF8000000 := by decide

theorem test_shli : (runs 0x49FFE083 [(2, 4)]).map (fun t => t.reg 3) = some 0xFFFFFFE0 := by decide

theorem test_shri : (runs 0x4BFFE083 [(2, 4)]).map (fun t => t.reg 3) = some 0x0FFFFFFF := by decide

theorem test_shlxi_32 : (runs 0x4C003083 [(2, 32)]).map (fun t => t.reg 3) = some 0xFFFFFFFF := by decide

theorem test_shrxi : (runs 0x4FFFE083 [(2, 4)]).map (fun t => t.reg 3) = some 0xFFFFFFFF := by decide

theorem test_rol :
    (runs 0x50001083 [(1, 0x12345678), (2, 36)]).map (fun t => t.reg 3) = some 0x23456781 := by decide

theorem test_ror :
    (runs 0x52001083 [(1, 0x12345678), (2, 36)]).map (fun t => t.reg 3) = some 0x81234567 := by decide

theorem test_roli : (runs 0x59FFE083 [(2, 4)]).map (fun t => t.reg 3) = some 0xFFFFFFEF := by decide

theorem test_rori : (runs 0x5A001083 [(2, 4)]).map (fun t => t.reg 3) = some 0x10000000 := by decide

theorem test_shl_mod32 :
    (stepOf (at100 { Config.default with shiftCount := .mod32 } [(1, 0x80000001), (2, 33)]) 0x40001083).map
      (fun t => t.reg 3) =
      some 2 := by decide

theorem test_ld :
    (stepOf ((at100 .default [(1, 0x200)]).storeWord 0x200 0xDEADBEEF) 0x60000043).map (fun t => t.reg 3) =
      some 0xDEADBEEF := by decide

theorem test_ld_unwritten :
    faultOf (step ((at100 .default [(1, 0x200)]).withFetchWord 32 0x60000043)) =
    some (.uninitialisedRead 0x200) := by decide

theorem test_st :
    (runs 0x64000081 [(1, 0x200), (2, 0x12345678)]).map (fun t => t.mem.readWord .big 0x200) =
      some (some 0x12345678) := by decide

theorem test_st_little_bytes :
    (stepOf (at100 { Config.default with byteOrder := .little }
      [(1, 0x200), (2, 0x11223344)]) 0x64000081).map
      (fun t => (t.mem.readByte 0x200, t.mem.readByte 0x203)) =
      some (some 0x44, some 0x11) := by decide

theorem test_sti :
    (runs 0x6E000001 [(1, 0x200)]).map (fun t => t.mem.readWord .big 0x200) = some (some 0xFFF80000) := by decide

theorem test_winc_wraps :
    (stepOf { at100 .default [] with cwp := 7 } 0x78000146).map (fun t => (t.cwp, t.reg 5, t.reg 6, t.icc)) =
      some (0, 7, 0, 9) := by decide

theorem test_winc_writes_new_window :
    (stepOf (at100 .default []) 0x78000418).map (fun t => (t.cwp, t.reg 0x18, t.reg 0x10)) =
      some (1, 1, 0) := by decide

theorem test_wdec :
    (stepOf { at100 .default [] with cwp := 3 } 0x70000146).map (fun t => (t.cwp, t.reg 5, t.reg 6, t.icc)) =
      some (2, 3, 2, 0) := by decide

theorem test_wdec_two_windows :
    (stepOf (at100 { Config.default with nwindows := 2 } []) 0x70000146).map
      (fun t => (t.cwp, t.reg 5, t.reg 6, t.icc)) =
      some (1, 0, 1, 8) := by decide

theorem test_jl :
    (runs 0x80000043 [(1, 0x400)]).map (fun t => (t.reg 3, t.pc, t.npc)) = some (0x108, 0x104, 0x400) := by decide

theorem test_jl_same_register :
    (runs 0x80000041 [(1, 0x400)]).map (fun t => (t.reg 1, t.npc)) = some (0x108, 0x400) := by decide

theorem test_jlr :
    (runs 0x84000043 [(1, 0xFFFFFFF0)]).map (fun t => (t.reg 3, t.pc, t.npc)) =
      some (0x108, 0x104, 0x0F4) := by decide

theorem test_jli :
    (runs 0x8BFFFF03 []).map (fun t => (t.reg 3, t.pc, t.npc)) = some (0x108, 0x104, 0xFFFFFFFC) := by decide

theorem test_jlri :
    (runs 0x8C001003 []).map (fun t => (t.reg 3, t.pc, t.npc)) = some (0x108, 0x104, 0x144) := by decide

theorem test_jc_taken :
    (stepOf { at100 .default [(1, 0x400)] with icc := 1 } 0x90001003).map
      (fun t => (t.reg 3, t.npc, t.annul)) =
      some (0x108, 0x400, false) := by decide

theorem test_jc_not_taken :
    (stepOf { at100 .default [(1, 0x400)] with icc := 0 } 0x90001003).map
      (fun t => (t.reg 3, t.npc, t.annul)) =
      some (0x108, 0x108, false) := by decide

theorem test_jc_a_taken :
    (stepOf { at100 .default [(1, 0x400)] with icc := 4 } 0x92001083).map
      (fun t => (t.reg 3, t.npc, t.annul)) =
      some (0x108, 0x400, true) := by decide

theorem test_jc_a_not_taken_annul :
    (stepOf { at100 { Config.default with annulNotTaken := .annul } [(1, 0x400)] with icc := 0 } 0x92001083).map
      (fun t => (t.annul, t.pc, t.npc)) =
      some (true, 0x104, 0x108) := by decide

theorem test_jcr :
    (stepOf { at100 .default [(1, 0x40)] with icc := 1 } 0x94001003).map
      (fun t => (t.reg 3, t.npc, t.annul)) =
      some (0x108, 0x144, false) := by decide

theorem test_jcr_a :
    (stepOf { at100 .default [(1, 0xFFFFFFF8)] with icc := 8 } 0x960010FE).map (fun t => (t.npc, t.annul)) =
      some (0xFC, true) := by decide

theorem test_jci :
    (stepOf { at100 .default [] with icc := 1 } 0x99000003).map (fun t => (t.reg 3, t.npc, t.annul)) =
      some (0x108, 0xFFFFF000, false) := by decide

theorem test_jci_a :
    (stepOf { at100 .default [] with icc := 8 } 0x9A2000FE).map (fun t => (t.npc, t.annul)) =
      some (0x200, true) := by decide

theorem test_jcri :
    (stepOf { at100 .default [] with icc := 8 } 0x9DFF80C3).map (fun t => (t.reg 3, t.npc, t.annul)) =
      some (0x108, 0xFC, false) := by decide

theorem test_jcri_not_taken_skip :
    (stepOf { at100 { Config.default with linkNotTaken := .skip } [(3, 9)] with icc := 7 } 0x9DFF80C3).map
      (fun t => (t.reg 3, t.npc, t.annul)) =
      some (9, 0x108, false) := by decide

theorem test_jcri_a :
    (stepOf { at100 .default [] with icc := 5 } 0x9E00C03E).map (fun t => (t.npc, t.annul)) =
      some (0x110, true) := by decide

theorem test_annulled_word_is_not_decoded :
    (nextOf (step (({ (at100 .default []).withFetchWord 32 0xB0000000 with annul := true } : State)))).map
      (fun t => (t.annul, t.pc, t.npc)) = some (false, 0x104, 0x108) := by decide

/-! ### States that meet the hypotheses of the statements -/

/-- The state of most witnesses: `$g1` = 0x200, `$g2` = 31, and a word of memory there. -/
def sample : State := (at100 .default [(1, 0x200), (2, 31)]).storeWord 0x200 0x11223344

/-- The same with other parameters. -/
def sampleOf (c : Config) : State := (at100 c [(1, 0x200), (2, 31)]).storeWord 0x200 0x11223344

theorem witness_DecodeOfEncode :
    wellFormed .literal (.jcriA 3 31 0x1FFF) = true ∧ wellFormed .shifted (.popi 3 0x1FFF 63) = true ∧
    wellFormed .strict (.nor 0 0 0) = true := by decide +kernel

theorem witness_EncodeOfDecode :
    decode .literal 0x15FC1083 = .ok (.add 3 1 2) ∧ decode .shifted 0x37FC1083 = .ok (.pop 3 1 2) ∧
    decode .strict 0x38000083 = .ok (.nori 3 0 2) := by decide +kernel

theorem witness_UnusedBitsIgnored :
    decode .literal 0x15FC1083 = .ok (.add 3 1 2) ∧
    (0x15FC1083 : Word) &&& usedMask (.add 3 1 2) = 0x14001083 &&& usedMask (.add 3 1 2) ∧
    wellFormed .literal (.add 3 1 2) = true := by decide +kernel

theorem witness_DecodeFollowsOpcodeTable :
    (∃ p ∈ opcodeTable, (0x15FC1083 : Word) &&& p.mask = p.value) ∧
    (∃ p ∈ opcodeTable, (0x90001FFE : Word) &&& p.mask = p.value) ∧ decode .literal 0x14001083 = .ok (.add 3 1 2) ∧
    (∀ p ∈ opcodeTable, (0x68000041 : Word) &&& p.mask ≠ p.value) ∧
    (∀ p ∈ opcodeTable, (0xE0000000 : Word) &&& p.mask ≠ p.value) := by decide +kernel

theorem witness_ReservedOpcodesIllegal :
    0xB ≤ (fieldOp 0xB0000000).toNat ∧ (fieldOp 0xEFFFFFFF).toNat ≤ 0xE := by decide +kernel

theorem witness_ReservedEncodings :
    ((fieldOp 0x00000001).toNat = 0x0 ∧ (0x00000001 : Word) ≠ 0) ∧
    ((fieldOp 0x32001083).toNat = 0x3 ∧ field 0x32001083 25 2 = 0b01#2) ∧
    ((fieldOp 0x68000041).toNat = 0x6 ∧ field 0x68000041 26 2 = 0b10#2) ∧
    ((fieldOp 0x9C00C83E).toNat = 0x9 ∧ (fieldR2 0x9C00C83E).toNat = 32) ∧
    ((fieldOp 0x9C00C7FE).toNat = 0x9 ∧ (fieldR2 0x9C00C7FE).toNat = 31) := by decide +kernel

theorem witness_StepRunsDecodedInstruction :
    let s := at100 .default [] |>.withFetchWord 32 0x10001083
    s.halted = false ∧ s.annul = false ∧ aligned s.pc = true ∧ s.memValid s.pc = true ∧
      s.fetchWord = some 0x10001083 ∧ decode s.cfg.logic2Map 0x10001083 = .ok (.sub 3 1 2) := by decide +kernel

theorem witness_StepFaultsBeforeExecution :
    let s := at100 smallMemory []
    let word := fun w => (s.withFetchWord 32 w).fetchWord
    s.halted = false ∧ ({ s with pc := 0x101 } : State).pc.toNat % 4 ≠ 0 ∧
      ({ s with pc := 0x3FC } : State).memValid 0x3FC = true ∧ s.memValid 0x400 = false ∧
      s.annul = false ∧ s.fetchWord = none ∧ word 0xB0000000 = some 0xB0000000 ∧
      word 0x00000001 = some 0x00000001 ∧ word 0x9C00C83E = some 0x9C00C83E ∧
      0xB ≤ (fieldOp 0xB0000000).toNat ∧ decode s.cfg.logic2Map 0x00000001 = .error (.reservedEncoding 0x00000001) ∧
      32 ≤ (fieldR2 0x9C00C83E).toNat := by decide +kernel

theorem witness_MisalignedTarget_jump :
    let s := at100 .default [(1, 0x402)]
    s.wf = true ∧ readable 1 = true ∧ writable 3 = true ∧ (s.reg 1).toNat % 4 ≠ 0 ∧
      (s.npc + s.reg 1).toNat % 4 ≠ 0 ∧ (31 : BitVec 6).toNat < 32 ∧
      s.icc.getLsbD (31 : BitVec 6).toNat = s.cfg.jumpSense ∧
      (widen s.cfg.immExt (0xFFFFF : BitVec 20)).toNat % 4 ≠ 0 ∧
      (s.npc + widen s.cfg.immExt (0xFFFFF : BitVec 20)).toNat % 4 ≠ 0 ∧
      (widen s.cfg.immExt (0x1FFF : BitVec 13)).toNat % 4 ≠ 0 ∧
      (s.npc + widen s.cfg.immExt (0x1FFF : BitVec 13)).toNat % 4 ≠ 0 := by decide +kernel

/-- Two steps: `jli $c0, 0x22` and the `nop` in its slot (M4 of the vectors). -/
def misalignedRun : Option (State × State) :=
  let s := ((at100 .default []).withFetchWord 32 0x880008BE).storeWord 0x104 0
  (nextOf (step s)).bind fun t => (nextOf (step t)).map fun u => (t, u)

theorem witness_MisalignedTarget_fetch :
    misalignedRun.map (fun p => (p.1.npc, p.2.pc, p.2.halted)) = some (0x22, 0x22, false) := by decide +kernel

theorem witness_HaltedRule :
    exec .halt sample = .next sample.halt ∧ sample.halt.halted = true ∧
    (step (sample.withFetchWord 32 0)) = .next (sample.withFetchWord 32 0).advance := ⟨rfl, rfl, rfl⟩

theorem witness_AnnulRule :
    (2 : BitVec 6).toNat < 32 ∧ readable 1 = true ∧ writable 3 = true ∧
    sample.icc.getLsbD 2 = sample.cfg.jumpSense ∧ sample.icc.getLsbD 31 = sample.cfg.jumpSense ∧
    (let s : State := { sample with annul := true }
     s.annul = true ∧ s.halted = false ∧ aligned s.pc = true ∧ s.memValid s.pc = true) := by decide +kernel

theorem witness_OnlyAnnullingJumpsAnnul :
    sample.annul = false ∧
    (nextOf (exec (.jcA 3 31 1) sample)).map (fun t => t.annul) = some true := by decide +kernel

theorem witness_SequencingRule :
    (nextOf (exec .halt sample)).isSome = true ∧ (nextOf (exec (.add 3 1 2) sample)).isSome = true ∧
    (Instr.add 3 1 2).opcode ≠ 0x8#4 ∧ (Instr.add 3 1 2).opcode ≠ 0x9#4 := by decide +kernel

theorem witness_ResetWellFormed :
    Config.default.legal = true ∧
    ({ Config.default with nwindows := 2, resetCwp := 1, resetPc := 0xFFFFFFFC } : Config).legal = true ∧
    Memory.wf [(0x200, 1), (0x203, 2)] = true ∧
    Memory.within [(0x200, 1), (0x203, 2)] Config.default.memValid = true := by decide +kernel

/-- Also the hypotheses of `StepKeepsParameters` and of the second clause of `PsrIsOpaque`. -/
theorem witness_StepKeepsWellFormed :
    (sample.withFetchWord 32 0x64000081).wf = true ∧
    (nextOf (step (sample.withFetchWord 32 0x64000081))).isSome = true := by decide +kernel

/-- `wdec` from window 0 and `winc` from window 7 wrap. -/
theorem witness_IccWriters :
    (nextOf (exec (.subcc 3 1 2) sample)).map (fun t => decide (t.icc = sample.icc)) = some false ∧
    (nextOf (exec (.addcc 3 1 2) sample)).isSome = true ∧ (nextOf (exec (.subcci 3 1 2) sample)).isSome = true ∧
    (nextOf (exec (.addcci 3 1 2) sample)).isSome = true ∧ (nextOf (exec (.winc 3 1) sample)).isSome = true ∧
    (nextOf (exec (.wdec 3 1) sample)).isSome = true ∧
    sample.cwp = 0 ∧ (nextOf (exec (.winc 3 1) { sample with cwp := 7 })).isSome = true := by decide +kernel

theorem witness_CwpWriters :
    (nextOf (exec (.winc 3 1) sample)).map (fun t => decide (t.cwp = sample.cwp)) = some false := by decide +kernel

theorem witness_MemoryWriters :
    (nextOf (exec (.st 2 1) sample)).map (fun t => (t.mem.readByte 0x203, sample.mem.readByte 0x203)) =
    some (some 31, some 0x44) := by decide +kernel

theorem witness_ByteOrderUnobservable :
    sameButByteOrder (State.reset.storeWord 0x200 0x11223344)
      (({ State.reset with cfg := { Config.default with byteOrder := .little } } : State).storeWord 0x200
        0x11223344) := by
  refine ⟨fun a ha => ?_, rfl⟩
  by_cases h : a = 0x200
  · subst h; decide
  · simp only [storeWord_mem]
    rw [readWord_writeWord_disjoint, readWord_writeWord_disjoint]
    · rfl
    · have : (0x200 : Word).toNat = 0x200 := rfl
      omega
    · have : (0x200 : Word).toNat = 0x200 := rfl
      omega

/-- An address at each end of the ranges of R28, in both settings of `WINDOW_OVERLAP`. -/
theorem witness_RegisterReads :
    sample.wf = true ∧ sample.cfg.windowOverlap = .overlap ∧
    (at100 { Config.default with windowOverlap := .disjoint } []).wf = true ∧
    (sample.reg 0x07, sample.reg 0x08, sample.reg 0x27, sample.reg 0x3B, sample.reg 0x3C) =
      (0xA5A5A5A4, 0xA5A5A5A4, 0xA5A5A5A4, 0x100, 0x104) ∧
    readable 0x28 = false ∧ readable 0x30 = false ∧ readable 0x32 = false ∧ readable 0x3A = false ∧
    readable 0x3D = false ∧ readable 0x31 = true := by decide +kernel

theorem witness_ConstantRegisters :
    readable 0x27 = true ∧ readable 0x31 = true ∧ isConstant 0x3E = true ∧
    isConstant 0x3F = true := by decide +kernel

/-- The hypotheses of `AddSubtractWithoutFlags`, `AddSubtractWithFlags`, `LogicTwoOperandForms`,
`LogicOneOperandForms`, `RotateForms`, `LinkJumpForms` and `LoadImmediateForm`. -/
theorem witness_three_operand_forms :
    sample.wf = true ∧ readable 1 = true ∧ readable 2 = true ∧ readable 0x31 = true ∧
    writable 0x27 = true ∧ writable 0x3F = true := by decide +kernel

theorem witness_SubtractRule :
    (at100 .default [(1, 3), (2, 5)]).wf = true ∧ (at100 .default [(1, 3), (2, 5)]).reg 1 = 3 ∧
    (at100 .default [(1, 3), (2, 5)]).reg 2 = 5 ∧ (0x11FC1083 : Word) &&& 0xFE000000 = 0x10000000 ∧
    readable 0x3D = false ∧ writable 0x31 = false := by decide +kernel

/-- Also the hypotheses of `AndRule`. -/
theorem witness_OrRule :
    (at100 .default logicRegs).wf = true ∧ (at100 .default logicRegs).reg 1 = 0x0F0F00FF ∧
    (at100 .default logicRegs).reg 2 = 0x00FF0F0F ∧ (0x21FC1083 : Word) &&& 0xFE000000 = 0x20000000 ∧
    (0x23FC1083 : Word) &&& 0xFE000000 = 0x22000000 := by decide +kernel

theorem witness_LeadingZerosCounted :
    (clz 0x0F0F00FF).toNat = 4 ∧ (clz 0).toNat = 32 ∧ (clz 0x80000000).toNat = 0 := by decide +kernel

theorem witness_ShiftForms :
    let s := sampleOf { Config.default with shiftCount := .refuse }
    s.wf = true ∧ s.cfg.shiftCount = .refuse ∧ (s.reg 2).toNat = 31 ∧ readable 2 = true ∧ readable 1 = true ∧
    writable 3 = true := by decide +kernel

theorem witness_LargeShiftCountRefused :
    let s := at100 { Config.default with shiftCount := .refuse } [(2, 32)]
    s.cfg.shiftCount = .refuse ∧ readable 2 = true ∧ writable 3 = true ∧
    (s.reg 2).toNat = 32 := by decide +kernel

/-- The ranges in `RotateMovesBits`, `ShiftStepMovesBits`, `ArithmeticRightShiftDivides` and `StandardIccLayout`, at
their ends. -/
theorem witness_bit_positions :
    (rotl 0x40000000 1).getLsbD 31 = true ∧ (31 : Nat) < 32 ∧ (shiftStep false true 0x80000000).getLsbD 30 = true ∧
    (30 : Nat) < 31 ∧ (shiftBits 0x80000000 31 true true).toInt = -1 ∧ (31 : Nat) ≤ 31 ∧
    (iccLayout .standard 0 true true).getLsbD 4 = false ∧ (4 : Nat) ≤ 4 := by decide +kernel

/-- Also the hypotheses of `StoreForms`. -/
theorem witness_LoadForm :
    sample.wf = true ∧ readable 1 = true ∧ writable 3 = true ∧ aligned (sample.reg 1) = true ∧
    sample.memValid (sample.reg 1) = true ∧
    sample.mem.readWord sample.cfg.byteOrder (sample.reg 1).toNat = some 0x11223344 := by decide +kernel

theorem witness_LoadForm_top_of_memory :
    let s := (at100 .default [(1, 0xFFFFFFFC)]).storeWord 0xFFFFFFFC 7
    s.wf = true ∧ aligned (s.reg 1) = true ∧ s.memValid (s.reg 1) = true ∧
      s.mem.readWord s.cfg.byteOrder (s.reg 1).toNat = some 7 := by decide +kernel

/-- At 0x100, with `$g1` = `a`, `$g2` = 31, and a `nop` at 0x104. -/
def beforeStore (a : Word) : State := (at100 .default [(1, a), (2, 31)]).storeWord 0x104 0

/-- That state after a store of `v` at `a`. -/
def afterStore (a v : Word) : State := ((beforeStore a).storeWord a v).advance

/-- A `nop` is a step without a store. -/
theorem nop_without_store {s : State} (addr : Word) (hw : s.fetchWord = some 0)
    (hs : step s = .next s.advance) : StepsWithoutStore addr s s.advance := by
  have hd : decode s.cfg.logic2Map 0 = .ok .nop := by cases s.cfg.logic2Map <;> rfl
  refine .next .refl (fun h => ?_) hs
  obtain ⟨_, rt, ⟨_, h⟩ | ⟨_, h⟩, _⟩ := (storesTo_of_decode hw hd).1 h <;> cases h

/-- `st` or `sti` to 0x200, then a `nop`, then a load from there. -/
theorem witness_LoadReturnsStoredWord :
    exec (.st 2 1) (beforeStore 0x200) = .next (afterStore 0x200 31) ∧
    exec (.sti 0x80000 1) (beforeStore 0x200) = .next (afterStore 0x200 0xFFF80000) ∧
    StepsWithoutStore 0x200 (afterStore 0x200 31) (afterStore 0x200 31).advance ∧
    StepsWithoutStore 0x200 (afterStore 0x200 0xFFF80000) (afterStore 0x200 0xFFF80000).advance ∧
    (beforeStore 0x200).wf = true ∧ (beforeStore 0x200).reg 1 = 0x200 ∧ aligned 0x200 = true ∧
    readable 1 = true ∧ writable 3 = true ∧ (afterStore 0x200 31).advance.reg 1 = 0x200 ∧
    (afterStore 0x200 0xFFF80000).advance.reg 1 = 0x200 :=
  ⟨rfl, rfl, nop_without_store _ (by decide +kernel) rfl, nop_without_store _ (by decide +kernel) rfl,
    by decide +kernel⟩

/-- A store to `npc`, which the next step fetches; and a store to the word after the `nop` there. -/
theorem witness_FetchSeesStore :
    exec (.st 2 1) (beforeStore 0x104) = .next (afterStore 0x104 31) ∧
    exec (.sti 0x80000 1) (beforeStore 0x104) = .next (afterStore 0x104 0xFFF80000) ∧
    (beforeStore 0x104).npc = (beforeStore 0x104).reg 1 ∧
    exec (.st 2 1) (beforeStore 0x108) = .next (afterStore 0x108 31) ∧
    StepsWithoutStore 0x108 (afterStore 0x108 31) (afterStore 0x108 31).advance ∧
    (afterStore 0x108 31).advance.pc = (beforeStore 0x108).reg 1 ∧
    (afterStore 0x108 31).advance.mem = (afterStore 0x108 31).mem ∧
    (afterStore 0x108 31).advance.cfg = (beforeStore 0x108).cfg :=
  ⟨rfl, rfl, by decide +kernel, rfl, nop_without_store _ (by decide +kernel) rfl, by decide +kernel, rfl,
    rfl⟩

theorem witness_MemoryFaults :
    let s := at100 smallMemory [(1, 0x201), (2, 0x400), (4, 0x3FC)]
    readable 1 = true ∧ writable 3 = true ∧ (s.reg 1).toNat % 4 ≠ 0 ∧ (s.reg 2).toNat % 4 = 0 ∧
      s.memValid (s.reg 2) = false ∧ s.memValid (s.reg 4) = true ∧
      s.mem.readWord s.cfg.byteOrder (s.reg 4).toNat = none := by decide +kernel

/-- The windows at both ends are 0, that of `sample`, and 7. -/
theorem witness_WindowForms :
    sample.wf = true ∧ writable 0x31 = false ∧ writable 0x27 = true ∧ writable 0x3E = true ∧
    isConstant 0x3E = true ∧ (5 : RegAddr).toNat < 0x28 ∧
    ({ sample with cwp := 7 } : State).wf = true := by decide +kernel

theorem witness_WindowsPassValues :
    (7 : RegAddr).toNat < 8 ∧ isConstant 0x3E = true ∧ sample.wf = true ∧ sample.cfg.windowOverlap = .overlap ∧
    (nextOf (exec (.winc 0x3E 7) sample)).isSome = true ∧
    (nextOf (exec (.wdec 0x3E 7) sample)).isSome = true := by decide +kernel

theorem witness_ConditionalJumpTaken :
    sample.wf = true ∧ readable 1 = true ∧ writable 3 = true ∧ (31 : BitVec 6).toNat < 32 ∧
    sample.icc.getLsbD 2 = sample.cfg.jumpSense ∧
    sample.icc.getLsbD 31 = sample.cfg.jumpSense ∧
    (let s := sampleOf { Config.default with jumpSense := false }
     s.wf = true ∧ s.icc.getLsbD 0 = s.cfg.jumpSense) := by decide +kernel

theorem witness_ConditionalJumpNotTaken :
    sample.wf = true ∧ readable 1 = true ∧ writable 3 = true ∧ (0 : BitVec 6).toNat < 32 ∧
    (sample.icc.getLsbD 0 ≠ sample.cfg.jumpSense ∧ sample.cfg.linkNotTaken = .write) ∧
    (let s := sampleOf { Config.default with linkNotTaken := .skip, annulNotTaken := .annul }
     s.wf = true ∧ s.icc.getLsbD 0 ≠ s.cfg.jumpSense ∧ s.cfg.linkNotTaken = .skip ∧
       s.cfg.annulNotTaken = .annul) := by decide +kernel

/-- Also the hypotheses of `RegisterFaultOrder`. -/
theorem witness_JumpFaults :
    32 ≤ (32 : BitVec 6).toNat ∧ (31 : BitVec 6).toNat < 32 ∧ readable 0x3D = false ∧ readable 1 = true ∧
    writable 0x31 = false := by decide +kernel

end Sys2Proof.Tests
end

/-! The words of an instruction by match and mask (R72), and what the decoder makes of those of opcode 1. -/

namespace Sys2Proof

/-- A bit that the mask selects is the bit of the match (R72). -/
theorem bitOf_of_match {w mask value : Word} (h : w &&& mask = value) {i : Nat}
    (hi : mask.getLsbD i = true) : bitOf w i = value.getLsbD i := by
  rw [bitOf, ← h, BitVec.getLsbD_and, hi, Bool.and_true]

/-- A mask that selects the whole opcode fixes it to that of the match (R53, R72). -/
theorem fieldOp_of_match {w mask value : Word} (h : w &&& mask = value)
    (hm : ∀ i, i < 4 → mask.getLsbD (28 + i) = true) : fieldOp w = fieldOp value := by
  refine field_eq fun i hi => ?_
  have hbit : bitOf w (28 + i) = value.getLsbD (28 + i) := bitOf_of_match h (hm i hi)
  simpa [fieldOp, field, hi, bitOf] using hbit

theorem decode_of_fieldOp_one (m : Logic2Map) {w : Word} (h : fieldOp w = 0x1#4) :
    decode m w = .ok (decodeAddSub w) := by
  simp [decode, h]

theorem decodeAddSub_sub {w : Word} (h27 : bitOf w 27 = false) (h26 : bitOf w 26 = false)
    (h25 : bitOf w 25 = false) : decodeAddSub w = .sub (fieldRd w) (fieldR1 w) (fieldR2 w) := by
  simp [decodeAddSub, h27, h26, h25]

/-- The words of `sub`: match 0x10000000, mask 0xFE000000; bits 24:18 do not matter (R68, R80). -/
theorem decode_sub_of_match (m : Logic2Map) {w : Word} (h : w &&& 0xFE000000 = 0x10000000) :
    decode m w = .ok (.sub (fieldRd w) (fieldR1 w) (fieldR2 w)) := by
  have hop : fieldOp w = 0x1#4 := fieldOp_of_match h (by decide)
  have h27 : bitOf w 27 = false := bitOf_of_match h (by decide)
  have h26 : bitOf w 26 = false := bitOf_of_match h (by decide)
  have h25 : bitOf w 25 = false := bitOf_of_match h (by decide)
  rw [decode_of_fieldOp_one m hop, decodeAddSub_sub h27 h26 h25]

end Sys2Proof

/-! The frame of an instruction that writes one register and goes on in sequence. -/

namespace Sys2Proof.Machine

/-- A general register of any window reads the same after `pc` and `npc` have moved on. -/
theorem regIn_advance {s : State} (h : s.wf = true) {w : Nat} (hw : w < s.cfg.nwindows) {a : RegAddr}
    (ha : isGeneral a) : s.advance.regIn w a = s.regIn w a := by
  have hl : locHeld s (locate s.cfg w a) := locHeld_locate ((wf_iff s).1 h) hw ha
  unfold State.regIn
  rw [advance_cfg]
  cases hloc : locate s.cfg w a with
  | global k => rfl
  | input w k => rfl
  | localReg w k => rfl
  | output w k => rfl
  | icc | pc | npc | constant v | absent => rw [hloc] at hl; exact hl.elim

/-- A register write leaves every general register, of every window, that is not the one written (R15, R29). -/
theorem regIn_setReg_other {s : State} (h : s.wf = true) {rd a : RegAddr} (hd : writable rd = true)
    {w : Nat} (hw : w < s.cfg.nwindows) (ha : isGeneral a) (hne : locate s.cfg w a ≠ s.dest rd)
    (v : Word) : (s.setReg rd v).regIn w a = s.regIn w a := by
  have hp := (wf_iff s).1 h
  rcases writable_cases hd with hgen | hconst
  · rw [State.regIn, setReg_cfg]
    exact readLoc_writeLoc_other (locHeld_locate hp hp.cwp hgen) (locHeld_locate hp hw ha) hne v
  · rw [setReg_constant hconst]

/-- The registers after a write to `rd` and the move to the next instruction. -/
theorem regWritten_setReg_advance {s : State} (h : s.wf = true) {rd : RegAddr}
    (hd : writable rd = true) (v : Word) : regWritten s (s.setReg rd v).advance rd v := by
  have hwf : (s.setReg rd v).wf = true := setReg_wf h rd v
  constructor
  · intro hgen
    have hcwp : (s.setReg rd v).cwp < (s.setReg rd v).cfg.nwindows := ((wf_iff _).1 hwf).cwp
    calc (s.setReg rd v).advance.reg rd
        = (s.setReg rd v).reg rd := regIn_advance hwf hcwp hgen
      _ = v := reg_setReg_same h hgen v
  · intro w a hw ha hne
    calc (s.setReg rd v).advance.regIn w a
        = (s.setReg rd v).regIn w a := regIn_advance hwf (by rwa [setReg_cfg]) ha
      _ = s.regIn w a := regIn_setReg_other h hd hw ha (List.ne_of_not_mem_cons hne) v

/-- An instruction whose outcome is a register write followed by the move to the next one changes nothing else. -/
theorem writesReg_of_exec {i : Instr} {s : State} (h : s.wf = true) {rd : RegAddr}
    (hd : writable rd = true) {v : Word} (he : exec i s = .next (s.setReg rd v).advance) :
    writesReg i s rd v s.icc :=
  ⟨_, he, regWritten_setReg_advance h hd v, by simp, fun x => by simp, by simp [controlKept],
    by simp [sequential]⟩

/-! ### The three-operand frame: its outcome and its faults in order (R77, R90, R107) -/

theorem threeOperand_fault_first {r1 : RegAddr} (h1 : readable r1 = false) (r2 rd : RegAddr) (s : State)
    (k : Word → Word → Result) :
    threeOperand (.reg r1) r2 rd s k = .fault (.registerFault r1) := by
  rw [threeOperand, readSource, readReg_fault h1]

theorem threeOperand_fault_second {x : Source} (hx : sourceReadable x = true) {r2 : RegAddr}
    (h2 : readable r2 = false) (rd : RegAddr) (s : State) (k : Word → Word → Result) :
    threeOperand x r2 rd s k = .fault (.registerFault r2) := by
  rw [threeOperand, readSource_ok hx, readReg_fault h2]

theorem threeOperand_fault_dest {x : Source} (hx : sourceReadable x = true) {r2 rd : RegAddr}
    (h2 : readable r2 = true) (hd : writable rd = false) (s : State) (k : Word → Word → Result) :
    threeOperand x r2 rd s k = .fault (.registerFault rd) := by
  rw [threeOperand, readSource_ok hx, readReg_ok h2, wcheck_fault hd]

theorem compute_ok {f : Word → Word → Word} {x : Source} {r2 rd : RegAddr} (hx : sourceReadable x = true)
    (h2 : readable r2 = true) (hd : writable rd = true) (s : State) :
    compute f rd x r2 s = .next (s.setReg rd (f (s.source x) (s.reg r2))).advance :=
  threeOperand_ok hx h2 hd s _

/-! ### `sub` (R80) -/

theorem exec_sub (rd r1 r2 : RegAddr) (s : State) :
    exec (.sub rd r1 r2) s = compute (fun a b => a - b) rd (.reg r1) r2 s :=
  rfl

/-- What `sub` answers when its three checks pass. -/
theorem exec_sub_ok {rd r1 r2 : RegAddr} (h1 : readable r1 = true) (h2 : readable r2 = true)
    (hd : writable rd = true) (s : State) :
    exec (.sub rd r1 r2) s = .next (s.setReg rd (s.reg r1 - s.reg r2)).advance :=
  compute_ok (x := .reg r1) h1 h2 hd s

theorem reg_c0 (s : State) : s.reg 0x3E = 0 := rfl

/-- `sub` writes the difference of the old values to `rd` and changes nothing else. -/
theorem writesReg_sub {s : State} (h : s.wf = true) {rd r1 r2 : RegAddr} (h1 : readable r1 = true)
    (h2 : readable r2 = true) (hd : writable rd = true) :
    writesReg (.sub rd r1 r2) s rd (s.reg r1 - s.reg r2) s.icc :=
  writesReg_of_exec h hd (exec_sub_ok h1 h2 hd s)

/-- Equal operands give 0. -/
theorem writesReg_sub_self {s : State} (h : s.wf = true) {rd r : RegAddr} (hr : readable r = true)
    (hd : writable rd = true) : writesReg (.sub rd r r) s rd 0 s.icc := by
  have hdiff : s.reg r - s.reg r = 0 := BitVec.sub_self _
  exact hdiff ▸ writesReg_sub h hr hr hd

/-- `sub rd, $c0, r2` negates. -/
theorem writesReg_sub_c0 {s : State} (h : s.wf = true) {rd r2 : RegAddr} (h2 : readable r2 = true)
    (hd : writable rd = true) : writesReg (.sub rd 0x3E r2) s rd (-(s.reg r2)) s.icc := by
  have hdiff : s.reg 0x3E - s.reg r2 = -(s.reg r2) := by rw [reg_c0]; exact BitVec.zero_sub _
  exact hdiff ▸ writesReg_sub h (by decide) h2 hd

/-- `rd = $c0` discards the result: only `pc` and `npc` move (R19). -/
theorem exec_sub_to_c0 {r1 r2 : RegAddr} (h1 : readable r1 = true) (h2 : readable r2 = true) (s : State) :
    exec (.sub 0x3E r1 r2) s = .next s.advance := by
  rw [exec_sub_ok h1 h2 (by decide), setReg_constant (by decide)]

/-- The example of R80: 3 minus 5 wraps to 0xFFFFFFFE. -/
theorem writesReg_sub_example {s : State} (h : s.wf = true) (h1 : s.reg 1 = 3) (h2 : s.reg 2 = 5) :
    writesReg (.sub 3 1 2) s 3 0xFFFFFFFE s.icc := by
  have hdiff : s.reg 1 - s.reg 2 = 0xFFFFFFFE := by rw [h1, h2]; rfl
  exact hdiff ▸ writesReg_sub h (by decide) (by decide) (by decide)

/-- Settles O30: the words by match and mask, the outcome by the three-operand frame of R77. -/
theorem subtractRule : Obligations.SubtractRule := by
  unfold Obligations.SubtractRule
  refine ⟨fun m _ hw => decode_sub_of_match m hw, fun s rd r1 r2 h => ⟨?_, ?_, ?_, ?_, ?_, ?_⟩,
    by decide, by decide, fun m => decode_sub_of_match m (by decide),
    fun s h h1 h2 => writesReg_sub_example h h1 h2⟩
  · exact fun h1 h2 hd => writesReg_sub h h1 h2 hd
  · exact fun h1 => by rw [exec_sub, compute, threeOperand_fault_first h1]
  · exact fun h1 h2 => by rw [exec_sub, compute, threeOperand_fault_second (x := .reg r1) h1 h2]
  · exact fun h1 h2 hd => by rw [exec_sub, compute, threeOperand_fault_dest (x := .reg r1) h1 h2 hd]
  · exact fun h2 hd => ⟨writesReg_sub_self h h2 hd, writesReg_sub_c0 h h2 hd⟩
  · exact fun h1 h2 => exec_sub_to_c0 h1 h2 s

end Sys2Proof.Machine


/-! What the decoder makes of the words of opcode 2 (R72, R88). -/

namespace Sys2Proof

theorem decode_of_fieldOp_two (m : Logic2Map) {w : Word} (h : fieldOp w = 0x2#4) :
    decode m w = .ok (decodeLogic1 w) := by
  simp [decode, h]

theorem decodeLogic1_or {w : Word} (h27 : bitOf w 27 = false) (h26 : bitOf w 26 = false)
    (h25 : bitOf w 25 = false) : decodeLogic1 w = .or (fieldRd w) (fieldR1 w) (fieldR2 w) := by
  simp [decodeLogic1, h27, h26, h25]

theorem decodeLogic1_and {w : Word} (h27 : bitOf w 27 = false) (h26 : bitOf w 26 = false)
    (h25 : bitOf w 25 = true) : decodeLogic1 w = .and (fieldRd w) (fieldR1 w) (fieldR2 w) := by
  simp [decodeLogic1, h27, h26, h25]

/-- A mask that selects the opcode, with a match of opcode 2, leaves the word to the Logic 1 decoder. -/
theorem decode_logic1_of_match (m : Logic2Map) {w value : Word} (h : w &&& 0xFE000000 = value)
    (hop : fieldOp value = 0x2#4) : decode m w = .ok (decodeLogic1 w) :=
  decode_of_fieldOp_two m ((fieldOp_of_match h (by decide)).trans hop)

/-- The words of `or`: match 0x20000000, mask 0xFE000000; bits 24:18 do not matter (R68, R93). -/
theorem decode_or_of_match (m : Logic2Map) {w : Word} (h : w &&& 0xFE000000 = 0x20000000) :
    decode m w = .ok (.or (fieldRd w) (fieldR1 w) (fieldR2 w)) := by
  have h27 : bitOf w 27 = false := bitOf_of_match h (by decide)
  have h26 : bitOf w 26 = false := bitOf_of_match h (by decide)
  have h25 : bitOf w 25 = false := bitOf_of_match h (by decide)
  rw [decode_logic1_of_match m h (by decide), decodeLogic1_or h27 h26 h25]

/-- The words of `and`: match 0x22000000, mask 0xFE000000; bits 24:18 do not matter (R68, R94). -/
theorem decode_and_of_match (m : Logic2Map) {w : Word} (h : w &&& 0xFE000000 = 0x22000000) :
    decode m w = .ok (.and (fieldRd w) (fieldR1 w) (fieldR2 w)) := by
  have h27 : bitOf w 27 = false := bitOf_of_match h (by decide)
  have h26 : bitOf w 26 = false := bitOf_of_match h (by decide)
  have h25 : bitOf w 25 = true := bitOf_of_match h (by decide)
  rw [decode_logic1_of_match m h (by decide), decodeLogic1_and h27 h26 h25]

end Sys2Proof

/-! `or` and `and`: what they write, their faults in order, and the rules R93 and R94. -/

namespace Sys2Proof.Machine

/-! ### The register version of a three-operand instruction -/

theorem compute_fault_first {r1 : RegAddr} (h1 : readable r1 = false) (f : Word → Word → Word)
    (r2 rd : RegAddr) (s : State) : compute f rd (.reg r1) r2 s = .fault (.registerFault r1) :=
  threeOperand_fault_first h1 r2 rd s _

theorem compute_fault_second {r1 r2 : RegAddr} (h1 : readable r1 = true) (h2 : readable r2 = false)
    (f : Word → Word → Word) (rd : RegAddr) (s : State) :
    compute f rd (.reg r1) r2 s = .fault (.registerFault r2) :=
  threeOperand_fault_second (x := .reg r1) h1 h2 rd s _

theorem compute_fault_dest {r1 r2 rd : RegAddr} (h1 : readable r1 = true) (h2 : readable r2 = true)
    (hd : writable rd = false) (f : Word → Word → Word) (s : State) :
    compute f rd (.reg r1) r2 s = .fault (.registerFault rd) :=
  threeOperand_fault_dest (x := .reg r1) h1 h2 hd s _

/-- An instruction that computes `f` of two registers writes the value of `f` to `rd` and changes nothing else. -/
theorem writesReg_of_compute {i : Instr} {s : State} (h : s.wf = true) {f : Word → Word → Word}
    {rd r1 r2 : RegAddr} (he : exec i s = compute f rd (.reg r1) r2 s) (h1 : readable r1 = true)
    (h2 : readable r2 = true) (hd : writable rd = true) {v : Word} (hv : f (s.reg r1) (s.reg r2) = v) :
    writesReg i s rd v s.icc := by
  subst hv
  exact writesReg_of_exec h hd (he.trans (compute_ok (x := .reg r1) h1 h2 hd s))

/-! ### The registers that R93 and R94 name as operands -/

theorem reg_c1 (s : State) : s.reg 0x3F = BitVec.allOnes 32 := rfl

theorem reg_icc (s : State) : s.reg 0x31 = s.icc := rfl

/-! ### `or` (R93) -/

theorem exec_or (rd r1 r2 : RegAddr) (s : State) :
    exec (.or rd r1 r2) s = compute (fun a b => a ||| b) rd (.reg r1) r2 s :=
  rfl

/-- `or` writes `v`, the bitwise OR of the old values, to `rd` and changes nothing else. -/
theorem writesReg_or {s : State} (h : s.wf = true) {rd r1 r2 : RegAddr} (h1 : readable r1 = true)
    (h2 : readable r2 = true) (hd : writable rd = true) {v : Word} (hv : s.reg r1 ||| s.reg r2 = v) :
    writesReg (.or rd r1 r2) s rd v s.icc :=
  writesReg_of_compute h (exec_or rd r1 r2 s) h1 h2 hd hv

/-- The move idiom: `or rd, r1, $c0` copies `r1`. -/
theorem writesReg_or_c0 {s : State} (h : s.wf = true) {rd r1 : RegAddr} (h1 : readable r1 = true)
    (hd : writable rd = true) : writesReg (.or rd r1 0x3E) s rd (s.reg r1) s.icc := by
  have hcopy : s.reg r1 ||| s.reg 0x3E = s.reg r1 := by rw [reg_c0]; exact BitVec.or_zero
  exact writesReg_or h h1 (by decide) hd hcopy

/-- `or rd, r1, $c1` sets every bit. -/
theorem writesReg_or_c1 {s : State} (h : s.wf = true) {rd r1 : RegAddr} (h1 : readable r1 = true)
    (hd : writable rd = true) : writesReg (.or rd r1 0x3F) s rd 0xFFFFFFFF s.icc := by
  have hones : s.reg r1 ||| s.reg 0x3F = 0xFFFFFFFF := by rw [reg_c1]; exact BitVec.or_allOnes
  exact writesReg_or h h1 (by decide) hd hones

/-- `or rd, $icc, $c0` reads the flags: the move idiom with `$icc` as its source. -/
theorem writesReg_or_icc_c0 {s : State} (h : s.wf = true) {rd : RegAddr} (hd : writable rd = true) :
    writesReg (.or rd 0x31 0x3E) s rd s.icc s.icc :=
  reg_icc s ▸ writesReg_or_c0 h (by decide) hd

/-- The example of R93. -/
theorem writesReg_or_example {s : State} (h : s.wf = true) (h1 : s.reg 1 = 0x0F0F00FF)
    (h2 : s.reg 2 = 0x00FF0F0F) : writesReg (.or 3 1 2) s 3 0x0FFF0FFF s.icc := by
  have hor : s.reg 1 ||| s.reg 2 = 0x0FFF0FFF := by rw [h1, h2]; rfl
  exact writesReg_or h (by decide) (by decide) (by decide) hor

/-- Settles O35: the words by match and mask, the outcome by the three-operand frame of R90. -/
theorem orRule : Obligations.OrRule := by
  unfold Obligations.OrRule
  refine ⟨fun m _ hw => decode_or_of_match m hw, fun s rd r1 r2 h => ⟨?_, ?_, ?_, ?_, ?_⟩,
    fun m => decode_or_of_match m (by decide), fun s h h1 h2 => writesReg_or_example h h1 h2⟩
  · exact fun h1 h2 hd => writesReg_or h h1 h2 hd rfl
  · exact fun h1 => by rw [exec_or, compute_fault_first h1]
  · exact fun h1 h2 => by rw [exec_or, compute_fault_second h1 h2]
  · exact fun h1 h2 hd => by rw [exec_or, compute_fault_dest h1 h2 hd]
  · exact fun h1 hd => ⟨writesReg_or_c0 h h1 hd, writesReg_or_c1 h h1 hd, writesReg_or_icc_c0 h hd⟩

/-! ### `and` (R94) -/

theorem exec_and (rd r1 r2 : RegAddr) (s : State) :
    exec (.and rd r1 r2) s = compute (fun a b => a &&& b) rd (.reg r1) r2 s :=
  rfl

/-- `and` writes `v`, the bitwise AND of the old values, to `rd` and changes nothing else. -/
theorem writesReg_and {s : State} (h : s.wf = true) {rd r1 r2 : RegAddr} (h1 : readable r1 = true)
    (h2 : readable r2 = true) (hd : writable rd = true) {v : Word} (hv : s.reg r1 &&& s.reg r2 = v) :
    writesReg (.and rd r1 r2) s rd v s.icc :=
  writesReg_of_compute h (exec_and rd r1 r2 s) h1 h2 hd hv

/-- `and rd, r1, $c0` clears every bit. -/
theorem writesReg_and_c0 {s : State} (h : s.wf = true) {rd r1 : RegAddr} (h1 : readable r1 = true)
    (hd : writable rd = true) : writesReg (.and rd r1 0x3E) s rd 0 s.icc := by
  have hzero : s.reg r1 &&& s.reg 0x3E = 0 := by rw [reg_c0]; exact BitVec.and_zero
  exact writesReg_and h h1 (by decide) hd hzero

/-- `and rd, r1, $c1` copies `r1`. -/
theorem writesReg_and_c1 {s : State} (h : s.wf = true) {rd r1 : RegAddr} (h1 : readable r1 = true)
    (hd : writable rd = true) : writesReg (.and rd r1 0x3F) s rd (s.reg r1) s.icc := by
  have hcopy : s.reg r1 &&& s.reg 0x3F = s.reg r1 := by rw [reg_c1]; exact BitVec.and_allOnes
  exact writesReg_and h h1 (by decide) hd hcopy

/-- The example of R94. -/
theorem writesReg_and_example {s : State} (h : s.wf = true) (h1 : s.reg 1 = 0x0F0F00FF)
    (h2 : s.reg 2 = 0x00FF0F0F) : writesReg (.and 3 1 2) s 3 0x000F000F s.icc := by
  have hand : s.reg 1 &&& s.reg 2 = 0x000F000F := by rw [h1, h2]; rfl
  exact writesReg_and h (by decide) (by decide) (by decide) hand

/-- Settles O36: the words by match and mask, the outcome by the three-operand frame of R90. -/
theorem andRule : Obligations.AndRule := by
  unfold Obligations.AndRule
  refine ⟨fun m _ hw => decode_and_of_match m hw, fun s rd r1 r2 h => ⟨?_, ?_, ?_, ?_, ?_⟩,
    fun m => decode_and_of_match m (by decide), fun s h h1 h2 => writesReg_and_example h h1 h2⟩
  · exact fun h1 h2 hd => writesReg_and h h1 h2 hd rfl
  · exact fun h1 => by rw [exec_and, compute_fault_first h1]
  · exact fun h1 h2 => by rw [exec_and, compute_fault_second h1 h2]
  · exact fun h1 h2 hd => by rw [exec_and, compute_fault_dest h1 h2 hd]
  · exact fun h1 hd => ⟨writesReg_and_c0 h h1 hd, writesReg_and_c1 h h1 hd⟩

end Sys2Proof.Machine

/-! Every instruction by the shared operation it runs, and what that operation does to the state when it completes:
the one case analysis that the statements about every instruction use. -/

namespace Sys2Proof.Machine

/-! ### The shared operation of an instruction -/

/-- The shared operation an instruction runs, with the operation's parameters. -/
inductive Meaning where
  | noop
  | arith (f : UnarySrc → Word → Word → Word) (rd : RegAddr) (x : Source) (r2 : RegAddr)
  | arithCc (f : Word → Word → Word) (icc : Config → Word → Word → Word) (rd : RegAddr) (x : Source)
      (r2 : RegAddr)
  | shifting (e right : Bool) (rd : RegAddr) (x : Source) (r2 : RegAddr)
  | load (rd rt : RegAddr)
  | storing (x : Source) (rt : RegAddr)
  | window (adv : Bool) (dprev dcur : RegAddr)
  | link (rel : Bool) (rd : RegAddr) (x : Source)
  | cond (rel an : Bool) (rd : RegAddr) (type : BitVec 6) (x : Source)
  | loadImm (rd : RegAddr) (imm22 : BitVec 22)
  | stop

def meaning : Instr → Meaning
  | .nop => .noop
  | .sub rd r1 r2 => .arith (fun _ a b => a - b) rd (.reg r1) r2
  | .subcc rd r1 r2 => .arithCc (fun a b => a - b) iccOfSub rd (.reg r1) r2
  | .add rd r1 r2 => .arith (fun _ a b => a + b) rd (.reg r1) r2
  | .addcc rd r1 r2 => .arithCc (fun a b => a + b) iccOfAdd rd (.reg r1) r2
  | .subi rd imm r2 => .arith (fun _ a b => a - b) rd (.imm13 imm) r2
  | .subcci rd imm r2 => .arithCc (fun a b => a - b) iccOfSub rd (.imm13 imm) r2
  | .addi rd imm r2 => .arith (fun _ a b => a + b) rd (.imm13 imm) r2
  | .addcci rd imm r2 => .arithCc (fun a b => a + b) iccOfAdd rd (.imm13 imm) r2
  | .or rd r1 r2 => .arith (fun _ a b => a ||| b) rd (.reg r1) r2
  | .and rd r1 r2 => .arith (fun _ a b => a &&& b) rd (.reg r1) r2
  | .xor rd r1 r2 => .arith (fun _ a b => a ^^^ b) rd (.reg r1) r2
  | .not rd r1 r2 => .arith (fun u a b => ~~~(unaryOperand u a b)) rd (.reg r1) r2
  | .ori rd imm r2 => .arith (fun _ a b => a ||| b) rd (.imm13 imm) r2
  | .andi rd imm r2 => .arith (fun _ a b => a &&& b) rd (.imm13 imm) r2
  | .xori rd imm r2 => .arith (fun _ a b => a ^^^ b) rd (.imm13 imm) r2
  | .noti rd imm r2 => .arith (fun u a b => ~~~(unaryOperand u a b)) rd (.imm13 imm) r2
  | .nor rd r1 r2 => .arith (fun _ a b => ~~~(a ||| b)) rd (.reg r1) r2
  | .nand rd r1 r2 => .arith (fun _ a b => ~~~(a &&& b)) rd (.reg r1) r2
  | .lz rd r1 r2 => .arith (fun u a b => clz (unaryOperand u a b)) rd (.reg r1) r2
  | .pop rd r1 r2 => .arith (fun u a b => popcount (unaryOperand u a b)) rd (.reg r1) r2
  | .nori rd imm r2 => .arith (fun _ a b => ~~~(a ||| b)) rd (.imm13 imm) r2
  | .nandi rd imm r2 => .arith (fun _ a b => ~~~(a &&& b)) rd (.imm13 imm) r2
  | .lzi rd imm r2 => .arith (fun u a b => clz (unaryOperand u a b)) rd (.imm13 imm) r2
  | .popi rd imm r2 => .arith (fun u a b => popcount (unaryOperand u a b)) rd (.imm13 imm) r2
  | .shl rd r1 r2 => .shifting false false rd (.reg r1) r2
  | .shr rd r1 r2 => .shifting false true rd (.reg r1) r2
  | .shlx rd r1 r2 => .shifting true false rd (.reg r1) r2
  | .shrx rd r1 r2 => .shifting true true rd (.reg r1) r2
  | .shli rd imm r2 => .shifting false false rd (.imm13 imm) r2
  | .shri rd imm r2 => .shifting false true rd (.imm13 imm) r2
  | .shlxi rd imm r2 => .shifting true false rd (.imm13 imm) r2
  | .shrxi rd imm r2 => .shifting true true rd (.imm13 imm) r2
  | .rol rd r1 r2 => .arith (fun _ v n => rotl v n.toNat) rd (.reg r1) r2
  | .ror rd r1 r2 => .arith (fun _ v n => rotr v n.toNat) rd (.reg r1) r2
  | .roli rd imm r2 => .arith (fun _ v n => rotl v n.toNat) rd (.imm13 imm) r2
  | .rori rd imm r2 => .arith (fun _ v n => rotr v n.toNat) rd (.imm13 imm) r2
  | .ld rd rt => .load rd rt
  | .st rv rt => .storing (.reg rv) rt
  | .sti imm rt => .storing (.imm20 imm) rt
  | .wdec dprev dcur => .window false dprev dcur
  | .winc dprev dcur => .window true dprev dcur
  | .jl rd r1 => .link false rd (.reg r1)
  | .jlr rd r1 => .link true rd (.reg r1)
  | .jli rd imm => .link false rd (.imm20 imm)
  | .jlri rd imm => .link true rd (.imm20 imm)
  | .jc rd type r1 => .cond false false rd type (.reg r1)
  | .jcA rd type r1 => .cond false true rd type (.reg r1)
  | .jcr rd type r1 => .cond true false rd type (.reg r1)
  | .jcrA rd type r1 => .cond true true rd type (.reg r1)
  | .jci rd type imm => .cond false false rd type (.imm13 imm)
  | .jciA rd type imm => .cond false true rd type (.imm13 imm)
  | .jcri rd type imm => .cond true false rd type (.imm13 imm)
  | .jcriA rd type imm => .cond true true rd type (.imm13 imm)
  | .li rd imm => .loadImm rd imm
  | .halt => .stop

def Meaning.run (s : State) : Meaning → Result
  | .noop => execNop s
  | .arith f rd x r2 => compute (f s.cfg.unarySrc) rd x r2 s
  | .arithCc f icc rd x r2 => computeCc f icc rd x r2 s
  | .shifting e right rd x r2 => shift e right rd x r2 s
  | .load rd rt => execLd rd rt s
  | .storing x rt => store x rt s
  | .window adv dprev dcur => windowMove adv dprev dcur s
  | .link rel rd x => linkJump rel rd x s
  | .cond rel an rd type x => condJump rel an rd type x s
  | .loadImm rd imm22 => execLi rd imm22 s
  | .stop => execHalt s

/-- What ties `Meaning` to the model. -/
theorem exec_eq_run (i : Instr) (s : State) : exec i s = (meaning i).run s := by
  cases i <;> rfl

/-! ### Which instructions run an operation -/

theorem meaning_eq_stop {i : Instr} : meaning i = .stop ↔ i = .halt := by
  constructor
  · intro h
    cases i with
    | halt => rfl
    | _ => cases h
  · rintro rfl
    rfl

theorem instr_of_window {i : Instr} {adv : Bool} {p c : RegAddr} (h : meaning i = .window adv p c) :
    i = .wdec p c ∨ i = .winc p c := by
  cases i with
  | wdec => cases h; exact .inl rfl
  | winc => cases h; exact .inr rfl
  | _ => cases h

theorem instr_of_storing {i : Instr} {x : Source} {rt : RegAddr} (h : meaning i = .storing x rt) :
    (∃ rv, i = .st rv rt) ∨ (∃ imm, i = .sti imm rt) := by
  cases i with
  | st rv => cases h; exact .inl ⟨rv, rfl⟩
  | sti imm => cases h; exact .inr ⟨imm, rfl⟩
  | _ => cases h

theorem instr_of_arithCc {i : Instr} {f : Word → Word → Word} {icc : Config → Word → Word → Word}
    {rd r2 : RegAddr} {x : Source} (h : meaning i = .arithCc f icc rd x r2) :
    (∃ rd r1 r2, i = .subcc rd r1 r2 ∨ i = .addcc rd r1 r2) ∨
      (∃ rd imm r2, i = .subcci rd imm r2 ∨ i = .addcci rd imm r2) := by
  cases i with
  | subcc rd r1 r2 => exact .inl ⟨rd, r1, r2, .inl rfl⟩
  | addcc rd r1 r2 => exact .inl ⟨rd, r1, r2, .inr rfl⟩
  | subcci rd imm r2 => exact .inr ⟨rd, imm, r2, .inl rfl⟩
  | addcci rd imm r2 => exact .inr ⟨rd, imm, r2, .inr rfl⟩
  | _ => cases h

theorem instr_of_annulling {i : Instr} {rel : Bool} {rd : RegAddr} {type : BitVec 6} {x : Source}
    (h : meaning i = .cond rel true rd type x) :
    (∃ r1, i = .jcA rd type r1 ∨ i = .jcrA rd type r1) ∨
      (∃ imm, i = .jciA rd type imm ∨ i = .jcriA rd type imm) := by
  cases i with
  | jcA _ _ r1 => cases h; exact .inl ⟨r1, .inl rfl⟩
  | jcrA _ _ r1 => cases h; exact .inl ⟨r1, .inr rfl⟩
  | jciA _ _ imm => cases h; exact .inr ⟨imm, .inl rfl⟩
  | jcriA _ _ imm => cases h; exact .inr ⟨imm, .inr rfl⟩
  | _ => cases h

theorem opcode_of_link {i : Instr} {rel : Bool} {rd : RegAddr} {x : Source}
    (h : meaning i = .link rel rd x) : i.opcode = 0x8#4 := by
  cases i with
  | jl | jlr | jli | jlri => rfl
  | _ => cases h

theorem opcode_of_cond {i : Instr} {rel an : Bool} {rd : RegAddr} {type : BitVec 6} {x : Source}
    (h : meaning i = .cond rel an rd type x) : i.opcode = 0x9#4 := by
  cases i with
  | jc | jcA | jcr | jcrA | jci | jciA | jcri | jcriA => rfl
  | _ => cases h

/-! ### The link of a Conditional Jump that is not taken (R136) -/

section CondLink

variable (b : Bool) (rd : RegAddr) (s : State)

theorem condLink_cases : condLink b rd s = s.setReg rd (s.npc + 4) ∨ condLink b rd s = s := by
  unfold condLink
  split
  · exact .inl rfl
  · exact .inr rfl

@[simp] theorem condLink_cfg : (condLink b rd s).cfg = s.cfg := by
  rcases condLink_cases b rd s with h | h <;> simp [h]
@[simp] theorem condLink_cwp : (condLink b rd s).cwp = s.cwp := by
  rcases condLink_cases b rd s with h | h <;> simp [h]
@[simp] theorem condLink_icc : (condLink b rd s).icc = s.icc := by
  rcases condLink_cases b rd s with h | h <;> simp [h]
@[simp] theorem condLink_npc : (condLink b rd s).npc = s.npc := by
  rcases condLink_cases b rd s with h | h <;> simp [h]
@[simp] theorem condLink_psr : (condLink b rd s).psr = s.psr := by
  rcases condLink_cases b rd s with h | h <;> simp [h]
@[simp] theorem condLink_annul : (condLink b rd s).annul = s.annul := by
  rcases condLink_cases b rd s with h | h <;> simp [h]
@[simp] theorem condLink_halted : (condLink b rd s).halted = s.halted := by
  rcases condLink_cases b rd s with h | h <;> simp [h]
@[simp] theorem condLink_mem : (condLink b rd s).mem = s.mem := by
  rcases condLink_cases b rd s with h | h <;> simp [h]

theorem condLink_wf {s : State} (h : s.wf = true) : (condLink b rd s).wf = true := by
  rcases condLink_cases b rd s with hs | hs <;> rw [hs]
  · exact setReg_wf h rd _
  · exact h

theorem condLink_true : condLink true rd s = s.setReg rd (s.npc + 4) := by simp [condLink]

end CondLink

/-! ### What an operation does when it completes -/

/-- The state `t` that an operation leaves when it completes from `s`, with the checks that `t` depends on. -/
inductive Effect (s : State) : Meaning → State → Prop
  | noop : Effect s .noop s.advance
  | arith (f rd x r2) : Effect s (.arith f rd x r2)
      (s.setReg rd (f s.cfg.unarySrc (s.source x) (s.reg r2))).advance
  | arithCc (f icc rd x r2) : Effect s (.arithCc f icc rd x r2)
      ((s.setReg rd (f (s.source x) (s.reg r2))).setIcc (icc s.cfg (s.source x) (s.reg r2))).advance
  | shifting (e right rd x r2 n) : Effect s (.shifting e right rd x r2)
      (s.setReg rd (shiftBits (s.source x) n e right)).advance
  | load (rd rt v) : Effect s (.load rd rt) (s.setReg rd v).advance
  | storing (x rt) (hal : aligned (s.reg rt) = true) (hv : s.memValid (s.reg rt) = true) :
      Effect s (.storing x rt) (s.storeWord (s.reg rt) (s.source x)).advance
  | window (adv dprev dcur) : Effect s (.window adv dprev dcur) (windowMoved adv dprev dcur s)
  | link (rel rd x) : Effect s (.link rel rd x)
      ((s.setReg rd (s.npc + 4)).jump (jumpTarget rel s.npc (s.source x)) false)
  | condTaken (rel an rd type x) (ht : jumpTaken s type = true) : Effect s (.cond rel an rd type x)
      ((s.setReg rd (s.npc + 4)).jump (jumpTarget rel s.npc (s.source x)) an)
  | condAnnulled (rel rd type x) (ha : s.cfg.annulNotTaken = .annul) : Effect s (.cond rel true rd type x)
      ((condLink false rd s).jump (s.npc + 4) true)
  | condPassed (rel an rd type x) : Effect s (.cond rel an rd type x) (condLink false rd s).advance
  | loadImm (rd imm) : Effect s (.loadImm rd imm) (s.setReg rd (widen s.cfg.immExt imm)).advance
  | stop : Effect s .stop s.halt

theorem execLi_next {rd : RegAddr} {imm : BitVec 22} {s t : State} :
    execLi rd imm s = .next t ↔ writable rd = true ∧
      t = (s.setReg rd (widen s.cfg.immExt imm)).advance := by
  simp only [execLi, readSource, wcheck_next, next_eq]

/-- Where a Conditional Jump goes on when it is taken (R136). -/
theorem condFlow_taken (rel an : Bool) (v : Word) (t : State) :
    condFlow true rel an v t = t.jump (jumpTarget rel t.npc v) an := rfl

/-- Where a Conditional Jump goes on when it is not taken (R136). -/
theorem condFlow_not_taken (rel an : Bool) (v : Word) (t : State) :
    condFlow false rel an v t =
      if an = true ∧ t.cfg.annulNotTaken = .annul then t.jump (t.npc + 4) true else t.advance := by
  simp [condFlow]

theorem effect_of_condJump {rel an : Bool} {rd : RegAddr} {type : BitVec 6} {x : Source} {s t : State}
    (h : condJump rel an rd type x s = .next t) : Effect s (.cond rel an rd type x) t := by
  obtain ⟨-, -, -, rfl⟩ := condJump_next.1 h
  cases ht : jumpTaken s type with
  | true =>
    rw [condFlow_taken, condLink_true, setReg_npc]
    exact .condTaken _ _ _ _ _ ht
  | false =>
    rw [condFlow_not_taken, condLink_cfg, condLink_npc]
    split
    · next hannul =>
      obtain ⟨rfl, ha⟩ := hannul
      exact .condAnnulled _ _ _ _ ha
    · exact .condPassed ..

/-- Whatever an operation answers as its next state is its effect. -/
theorem effect_of_run {m : Meaning} {s t : State} (h : m.run s = .next t) : Effect s m t := by
  cases m with
  | noop => obtain rfl := next_eq.1 h; exact .noop
  | arith f rd x r2 => obtain ⟨-, -, -, rfl⟩ := compute_next.1 h; exact .arith ..
  | arithCc f icc rd x r2 => obtain ⟨-, -, -, rfl⟩ := computeCc_next.1 h; exact .arithCc ..
  | shifting e right rd x r2 => obtain ⟨-, -, -, n, -, rfl⟩ := shift_next.1 h; exact .shifting ..
  | load rd rt => obtain ⟨-, -, -, -, v, -, rfl⟩ := execLd_next.1 h; exact .load ..
  | storing x rt => obtain ⟨-, -, hal, hv, rfl⟩ := store_next.1 h; exact .storing _ _ hal hv
  | window adv dprev dcur => obtain ⟨-, -, -, rfl⟩ := windowMove_next.1 h; exact .window ..
  | link rel rd x => obtain ⟨-, -, rfl⟩ := linkJump_next.1 h; exact .link ..
  | cond rel an rd type x => exact effect_of_condJump h
  | loadImm rd imm => obtain ⟨-, rfl⟩ := execLi_next.1 h; exact .loadImm ..
  | stop => obtain rfl := next_eq.1 h; exact .stop

/-- Whatever an instruction answers as its next state is the effect of the operation it runs. -/
theorem effect_of_exec {i : Instr} {s t : State} (h : exec i s = .next t) : Effect s (meaning i) t :=
  effect_of_run (exec_eq_run i s ▸ h)

/-! ### The Register Window operation, field by field (R127) -/

section WindowMoved

variable (adv : Bool) (p c : RegAddr) (s : State)

@[simp] theorem windowMoved_cfg : (windowMoved adv p c s).cfg = s.cfg := by simp [windowMoved]
@[simp] theorem windowMoved_cwp :
    (windowMoved adv p c s).cwp = windowNext s.cfg.nwindows s.cwp adv := by simp [windowMoved]
@[simp] theorem windowMoved_icc : (windowMoved adv p c s).icc =
    iccOfWindow s.cfg (windowNext s.cfg.nwindows s.cwp adv) (windowWrap s.cfg.nwindows s.cwp adv) := by
  simp [windowMoved]
@[simp] theorem windowMoved_pc : (windowMoved adv p c s).pc = s.npc := by simp [windowMoved]
@[simp] theorem windowMoved_npc : (windowMoved adv p c s).npc = s.npc + 4 := by simp [windowMoved]
@[simp] theorem windowMoved_psr : (windowMoved adv p c s).psr = s.psr := by simp [windowMoved]
@[simp] theorem windowMoved_annul : (windowMoved adv p c s).annul = s.annul := by simp [windowMoved]
@[simp] theorem windowMoved_halted : (windowMoved adv p c s).halted = s.halted := by simp [windowMoved]
@[simp] theorem windowMoved_mem : (windowMoved adv p c s).mem = s.mem := by simp [windowMoved]

theorem windowNext_lt {n : Nat} (hn : 2 ≤ n) (old : Nat) : windowNext n old adv < n := by
  unfold windowNext
  split <;> exact Nat.mod_lt _ (by omega)

theorem windowMoved_wf {s : State} (h : s.wf = true) : (windowMoved adv p c s).wf = true := by
  have hn : 2 ≤ s.cfg.nwindows := legal_nwindows ((wf_iff s).1 h).legal
  rw [windowMoved, advance_wf, setIcc_wf]
  exact setReg_wf (setReg_wf (setCwp_wf h (windowNext_lt adv hn _)) _ _) _ _

end WindowMoved

/-! ### What every instruction keeps -/

section Keeps

variable {s t : State} {m : Meaning} {i : Instr}

theorem Effect.cfg (h : Effect s m t) : t.cfg = s.cfg := by cases h <;> simp
theorem Effect.psr (h : Effect s m t) : t.psr = s.psr := by cases h <;> simp

theorem Effect.wf (h : Effect s m t) (hs : s.wf = true) : t.wf = true := by
  cases h with
  | noop | stop => simpa using hs
  | arith | arithCc | shifting | load | loadImm | link | condTaken => simpa using setReg_wf hs _ _
  | storing x rt hal hv => simpa using storeWord_wf hs _ hal hv
  | window => exact windowMoved_wf _ _ _ hs
  | condAnnulled | condPassed => simpa using condLink_wf _ _ hs

/-! ### What every step keeps -/

/-- A step is the no-op of an annulled slot, or what some instruction does. -/
theorem step_cases (h : step s = .next t) :
    s.halted = false ∧ (s.annul = true ∧ t = s.skipAnnulled ∨ s.annul = false ∧ ∃ i, exec i s = .next t) := by
  obtain ⟨hh, -, -, hskip | ⟨ha, w, i, -, -, hi⟩⟩ := step_next.1 h
  · exact ⟨hh, .inl hskip⟩
  · exact ⟨hh, .inr ⟨ha, i, hi⟩⟩

theorem step_keeps_cfg (h : step s = .next t) : t.cfg = s.cfg := by
  obtain ⟨-, ⟨-, rfl⟩ | ⟨-, i, hi⟩⟩ := step_cases h
  · rfl
  · exact (effect_of_exec hi).cfg

theorem step_keeps_psr (h : step s = .next t) : t.psr = s.psr := by
  obtain ⟨-, ⟨-, rfl⟩ | ⟨-, i, hi⟩⟩ := step_cases h
  · rfl
  · exact (effect_of_exec hi).psr

theorem step_keeps_wf (hs : s.wf = true) (h : step s = .next t) : t.wf = true := by
  obtain ⟨-, ⟨-, rfl⟩ | ⟨-, i, hi⟩⟩ := step_cases h
  · rwa [skipAnnulled_wf]
  · exact (effect_of_exec hi).wf hs

end Keeps

/-- Settles O19: an annulled slot touches no part of the invariant, and the effect of every operation keeps it. -/
theorem stepKeepsWellFormed : Obligations.StepKeepsWellFormed := by
  unfold Obligations.StepKeepsWellFormed
  exact fun _ _ => step_keeps_wf

/-- Settles O20. -/
theorem stepKeepsParameters : Obligations.StepKeepsParameters := by
  unfold Obligations.StepKeepsParameters
  exact fun _ _ => step_keeps_cfg

end Sys2Proof.Machine

/-! Relations between states that every step keeps: what no instruction reads has no effect on a run. -/

namespace Sys2Proof.Machine

/-! ### Simulations -/

/-- Outcomes that correspond under a relation between states: the same fault or refusal, or related next states. -/
inductive OutcomeRel (R : State → State → Prop) : Result → Result → Prop
  | next {s t : State} (h : R s t) : OutcomeRel R (.next s) (.next t)
  | fault (f : Fault) : OutcomeRel R (.fault f) (.fault f)
  | refused (f : Refusal) : OutcomeRel R (.refused f) (.refused f)

/-- Related states read alike, and every update of a state takes related states to related states. The states may
differ in the byte order, as long as each aligned word of memory reads the same. -/
structure Simulation (R : State → State → Prop) : Prop where
  cfg {s t} : R s t → t.cfg = { s.cfg with byteOrder := t.cfg.byteOrder }
  reg {s t} : R s t → ∀ a, t.reg a = s.reg a
  cwp {s t} : R s t → t.cwp = s.cwp
  icc {s t} : R s t → t.icc = s.icc
  pc {s t} : R s t → t.pc = s.pc
  npc {s t} : R s t → t.npc = s.npc
  annul {s t} : R s t → t.annul = s.annul
  halted {s t} : R s t → t.halted = s.halted
  readWord {s t} : R s t → ∀ addr : Word, aligned addr = true →
    t.mem.readWord t.cfg.byteOrder addr.toNat = s.mem.readWord s.cfg.byteOrder addr.toNat
  setReg {s t} : R s t → ∀ a v, R (s.setReg a v) (t.setReg a v)
  setIcc {s t} : R s t → ∀ v, R (s.setIcc v) (t.setIcc v)
  setCwp {s t} : R s t → ∀ w, R (s.setCwp w) (t.setCwp w)
  storeWord {s t} : R s t → ∀ addr v, aligned addr = true → R (s.storeWord addr v) (t.storeWord addr v)
  advance {s t} : R s t → R s.advance t.advance
  jump {s t} : R s t → ∀ target a, R (s.jump target a) (t.jump target a)
  halt {s t} : R s t → R s.halt t.halt
  skipAnnulled {s t} : R s t → R s.skipAnnulled t.skipAnnulled

namespace Simulation

variable {R : State → State → Prop} (hS : Simulation R) {s t : State} (h : R s t)
include hS h

/-! ### What related states agree on -/

theorem nwindows : t.cfg.nwindows = s.cfg.nwindows := by rw [hS.cfg h]
theorem immExt : t.cfg.immExt = s.cfg.immExt := by rw [hS.cfg h]
theorem unarySrc : t.cfg.unarySrc = s.cfg.unarySrc := by rw [hS.cfg h]
theorem logic2Map : t.cfg.logic2Map = s.cfg.logic2Map := by rw [hS.cfg h]
theorem shiftCount : t.cfg.shiftCount = s.cfg.shiftCount := by rw [hS.cfg h]
theorem linkNotTaken : t.cfg.linkNotTaken = s.cfg.linkNotTaken := by rw [hS.cfg h]
theorem annulNotTaken : t.cfg.annulNotTaken = s.cfg.annulNotTaken := by rw [hS.cfg h]

theorem memValid (addr : Word) : t.memValid addr = s.memValid addr := by
  rw [State.memValid, State.memValid, hS.cfg h]

theorem jumpTaken (type : BitVec 6) : jumpTaken t type = jumpTaken s type := by
  rw [Machine.jumpTaken, Machine.jumpTaken, hS.icc h, hS.cfg h]

theorem iccOfAdd (a b : Word) : iccOfAdd t.cfg a b = iccOfAdd s.cfg a b := by rw [hS.cfg h]; rfl
theorem iccOfSub (a b : Word) : iccOfSub t.cfg a b = iccOfSub s.cfg a b := by rw [hS.cfg h]; rfl
theorem iccOfWindow (w : Nat) (b : Bool) : iccOfWindow t.cfg w b = iccOfWindow s.cfg w b := by
  rw [hS.cfg h]; rfl

/-! ### The operations, from related states -/

omit hS h in
theorem wcheck_rel {a : RegAddr} {k k' : Result} (hk : OutcomeRel R k k') :
    OutcomeRel R (wcheck a k) (wcheck a k') := by
  unfold wcheck
  split
  · exact hk
  · exact .fault _

theorem readReg_rel {a : RegAddr} {k k' : Word → Result} (hk : ∀ v, OutcomeRel R (k v) (k' v)) :
    OutcomeRel R (readReg a s k) (readReg a t k') := by
  rw [readReg, readReg, hS.reg h]
  split
  · exact hk _
  · exact .fault _

theorem readSource_rel {x : Source} {k k' : Word → Result} (hk : ∀ v, OutcomeRel R (k v) (k' v)) :
    OutcomeRel R (readSource x s k) (readSource x t k') := by
  cases x with
  | reg a => exact hS.readReg_rel h hk
  | imm13 v | imm20 v | imm22 v => rw [readSource, readSource, hS.immExt h]; exact hk _

theorem threeOperand_rel {x : Source} {r2 rd : RegAddr} {k k' : Word → Word → Result}
    (hk : ∀ a b, OutcomeRel R (k a b) (k' a b)) :
    OutcomeRel R (threeOperand x r2 rd s k) (threeOperand x r2 rd t k') :=
  hS.readSource_rel h fun a => hS.readReg_rel h fun b => wcheck_rel (hk a b)

theorem memRead_rel {addr : Word} {k k' : Word → Result} (hk : ∀ v, OutcomeRel R (k v) (k' v)) :
    OutcomeRel R (memRead addr s k) (memRead addr t k') := by
  unfold memRead
  split
  · next hal =>
    rw [hS.memValid h, hS.readWord h addr hal]
    split
    · split
      · exact hk _
      · exact .fault _
    · exact .fault _
  · exact .fault _

theorem memWrite_rel {addr v : Word} {k k' : State → Result}
    (hk : ∀ {s' t'}, R s' t' → OutcomeRel R (k s') (k' t')) :
    OutcomeRel R (memWrite addr v s k) (memWrite addr v t k') := by
  unfold memWrite
  split
  · next hal =>
    rw [hS.memValid h]
    split
    · exact hk (hS.storeWord h _ _ hal)
    · exact .fault _
  · exact .fault _

theorem condLink_rel (b : Bool) (rd : RegAddr) : R (condLink b rd s) (condLink b rd t) := by
  rw [condLink, condLink, hS.linkNotTaken h, hS.npc h]
  split
  · exact hS.setReg h _ _
  · exact h

theorem condFlow_rel (b rel an : Bool) (v : Word) : R (condFlow b rel an v s) (condFlow b rel an v t) := by
  rw [condFlow, condFlow, hS.annulNotTaken h, hS.npc h]
  split
  · exact hS.jump h _ _
  · split
    · exact hS.jump h _ _
    · exact hS.advance h

/-! ### The meanings, from related states -/

theorem compute_rel (f : Word → Word → Word) (rd r2 : RegAddr) (x : Source) :
    OutcomeRel R (compute f rd x r2 s) (compute f rd x r2 t) :=
  hS.threeOperand_rel h fun _ _ => .next (hS.advance (hS.setReg h _ _))

theorem computeCc_rel (f : Word → Word → Word) {icc : Config → Word → Word → Word}
    (hicc : ∀ a b, icc t.cfg a b = icc s.cfg a b) (rd r2 : RegAddr) (x : Source) :
    OutcomeRel R (computeCc f icc rd x r2 s) (computeCc f icc rd x r2 t) := by
  refine hS.threeOperand_rel h fun a b => ?_
  rw [hicc]
  exact .next (hS.advance (hS.setIcc (hS.setReg h _ _) _))

theorem shift_rel (e right : Bool) (rd r2 : RegAddr) (x : Source) :
    OutcomeRel R (shift e right rd x r2 s) (shift e right rd x r2 t) := by
  refine hS.threeOperand_rel h fun v n => ?_
  rw [hS.shiftCount h]
  split
  · exact .next (hS.advance (hS.setReg h _ _))
  · exact .fault _

theorem execLd_rel (rd rt : RegAddr) : OutcomeRel R (execLd rd rt s) (execLd rd rt t) :=
  hS.readReg_rel h fun _ => wcheck_rel <| hS.memRead_rel h fun _ =>
    .next (hS.advance (hS.setReg h _ _))

theorem store_rel (x : Source) (rt : RegAddr) : OutcomeRel R (store x rt s) (store x rt t) :=
  hS.readSource_rel h fun _ => hS.readReg_rel h fun _ => hS.memWrite_rel h fun h' =>
    .next (hS.advance h')

theorem windowMove_rel (adv : Bool) (p c : RegAddr) :
    OutcomeRel R (windowMove adv p c s) (windowMove adv p c t) := by
  simp only [windowMove, hS.cwp h, hS.nwindows h, hS.iccOfWindow h]
  refine wcheck_rel (wcheck_rel ?_)
  split
  · exact .fault _
  · exact .next (hS.advance (hS.setIcc (hS.setReg (hS.setReg (hS.setCwp h _) _ _) _ _) _))

theorem linkJump_rel (rel : Bool) (rd : RegAddr) (x : Source) :
    OutcomeRel R (linkJump rel rd x s) (linkJump rel rd x t) := by
  refine hS.readSource_rel h fun v => wcheck_rel ?_
  rw [hS.npc h]
  exact .next (hS.jump (hS.setReg h _ _) _ _)

theorem condJump_rel (rel an : Bool) (rd : RegAddr) (type : BitVec 6) (x : Source) :
    OutcomeRel R (condJump rel an rd type x s) (condJump rel an rd type x t) := by
  rw [condJump, condJump, hS.jumpTaken h]
  split
  · exact hS.readSource_rel h fun v => wcheck_rel (.next (hS.condFlow_rel (hS.condLink_rel h _ _) _ _ _ _))
  · exact .fault _

theorem execLi_rel (rd : RegAddr) (imm : BitVec 22) : OutcomeRel R (execLi rd imm s) (execLi rd imm t) :=
  hS.readSource_rel h fun _ => wcheck_rel (.next (hS.advance (hS.setReg h _ _)))

omit hS h in
/-- The word that a form with C = 1 writes to `$icc` is that of an addition or of a subtraction (R79). -/
theorem icc_of_arithCc {i : Instr} {f : Word → Word → Word} {icc : Config → Word → Word → Word}
    {rd r2 : RegAddr} {x : Source} (hm : meaning i = .arithCc f icc rd x r2) :
    icc = Machine.iccOfAdd ∨ icc = Machine.iccOfSub := by
  obtain ⟨_, _, _, rfl | rfl⟩ | ⟨_, _, _, rfl | rfl⟩ := instr_of_arithCc hm <;> cases hm
  · exact .inr rfl
  · exact .inl rfl
  · exact .inr rfl
  · exact .inl rfl

theorem exec_rel (i : Instr) : OutcomeRel R (exec i s) (exec i t) := by
  rw [exec_eq_run, exec_eq_run]
  cases hm : meaning i with
  | noop => exact .next (hS.advance h)
  | arith f rd x r2 => simpa only [Meaning.run, hS.unarySrc h] using hS.compute_rel h _ rd r2 x
  | arithCc f icc rd x r2 =>
    rcases icc_of_arithCc hm with rfl | rfl
    · exact hS.computeCc_rel h f (hS.iccOfAdd h) rd r2 x
    · exact hS.computeCc_rel h f (hS.iccOfSub h) rd r2 x
  | shifting e right rd x r2 => exact hS.shift_rel h e right rd r2 x
  | load rd rt => exact hS.execLd_rel h rd rt
  | storing x rt => exact hS.store_rel h x rt
  | window adv p c => exact hS.windowMove_rel h adv p c
  | link rel rd x => exact hS.linkJump_rel h rel rd x
  | cond rel an rd type x => exact hS.condJump_rel h rel an rd type x
  | loadImm rd imm => exact hS.execLi_rel h rd imm
  | stop => exact .next (hS.halt h)

/-! ### The step, from related states -/

theorem decodeThen_rel (w : Word) {k k' : Instr → Result} (hk : ∀ i, OutcomeRel R (k i) (k' i)) :
    OutcomeRel R (decodeThen s w k) (decodeThen t w k') := by
  rw [decodeThen, decodeThen, hS.logic2Map h]
  split
  · exact hk _
  · exact .fault _

theorem fetch_rel (hal : aligned s.pc = true) {k k' : Word → Result}
    (hk : ∀ w, OutcomeRel R (k w) (k' w)) : OutcomeRel R (fetch s k) (fetch t k') := by
  rw [fetch, fetch, State.fetchWord, State.fetchWord, hS.pc h, hS.readWord h _ hal]
  split
  · exact hk _
  · exact .fault _

/-- Related states take corresponding steps. -/
theorem step_rel : OutcomeRel R (step s) (step t) := by
  rw [step, step, fetchCheck, fetchCheck, hS.halted h, hS.pc h, hS.memValid h, hS.annul h]
  split
  · exact .fault _
  split
  · next hal =>
    split
    · split
      · exact .next (hS.skipAnnulled h)
      · exact hS.fetch_rel h hal fun w => hS.decodeThen_rel h w fun i => hS.exec_rel h i
    · exact .fault _
  · exact .fault _

end Simulation

/-! ### The parts of the state that no register address reads -/

/-- `s` with another byte order, another `$psr` and another memory. -/
def State.conceal (s : State) (o : ByteOrder) (psr : Word) (m : Memory) : State :=
  { s with cfg := { s.cfg with byteOrder := o }, psr := psr, mem := m }

section Conceal

variable (s : State) (o : ByteOrder) (psr : Word) (m : Memory)

theorem conceal_locate (w : Nat) (a : RegAddr) :
    locate (s.conceal o psr m).cfg w a = locate s.cfg w a := rfl

theorem conceal_reg (a : RegAddr) : (s.conceal o psr m).reg a = s.reg a := by
  rw [State.reg, conceal_locate]
  change (s.conceal o psr m).readLoc (locate s.cfg s.cwp a) = s.readLoc (locate s.cfg s.cwp a)
  cases locate s.cfg s.cwp a <;> rfl

theorem conceal_setReg (a : RegAddr) (v : Word) :
    (s.conceal o psr m).setReg a v = (s.setReg a v).conceal o psr m := by
  rw [State.setReg, conceal_locate]
  change (s.conceal o psr m).writeLoc (locate s.cfg s.cwp a) v =
    (s.writeLoc (locate s.cfg s.cwp a) v).conceal o psr m
  cases locate s.cfg s.cwp a <;> rfl

theorem conceal_storeWord (addr v : Word) : (s.conceal o psr m).storeWord addr v =
    (s.storeWord addr v).conceal o psr (m.writeWord o addr.toNat v) := rfl

end Conceal

/-! ### `$psr` (R27) -/

/-- `t` is `s` with `v` in `$psr`. -/
def samePsrAside (v : Word) (s t : State) : Prop := t = s.conceal s.cfg.byteOrder v s.mem

theorem samePsrAside_simulation (v : Word) : Simulation (samePsrAside v) where
  cfg := by rintro s _ rfl; rfl
  reg := by rintro s _ rfl a; exact conceal_reg ..
  cwp := by rintro s _ rfl; rfl
  icc := by rintro s _ rfl; rfl
  pc := by rintro s _ rfl; rfl
  npc := by rintro s _ rfl; rfl
  annul := by rintro s _ rfl; rfl
  halted := by rintro s _ rfl; rfl
  readWord := by rintro s _ rfl addr _; rfl
  setReg := by rintro s _ rfl a u; rw [samePsrAside, conceal_setReg, setReg_cfg, setReg_mem]
  setIcc := by rintro s _ rfl u; rfl
  setCwp := by rintro s _ rfl w; rfl
  storeWord := by rintro s _ rfl addr u _; rfl
  advance := by rintro s _ rfl; rfl
  jump := by rintro s _ rfl target a; rfl
  halt := by rintro s _ rfl; rfl
  skipAnnulled := by rintro s _ rfl; rfl

theorem eq_mapNext_of_outcomeRel {v : Word} {r r' : Result} (h : OutcomeRel (samePsrAside v) r r') :
    r' = mapNext (fun t => { t with psr := v }) r := by
  cases h with
  | next hst => exact congrArg _ hst
  | fault f | refused f => rfl

/-- Settles O21: the states that differ in `$psr` only are a simulation. -/
theorem psrIsOpaque : Obligations.PsrIsOpaque := by
  unfold Obligations.PsrIsOpaque
  refine ⟨fun s v => ?_, fun s t => step_keeps_psr, fun s k => readReg_fault rfl s k,
    fun k => wcheck_fault rfl k⟩
  have hrel : samePsrAside v s { s with psr := v } := rfl
  exact eq_mapNext_of_outcomeRel ((samePsrAside_simulation v).step_rel hrel)

/-! ### The byte order (R42) -/

/-- `t` is `s` with a byte order and a memory in which every aligned word reads the same. -/
def sameWords (s t : State) : Prop :=
  ∃ o m, (∀ a, a % 4 = 0 → m.readWord o a = s.mem.readWord s.cfg.byteOrder a) ∧
    t = s.conceal o s.psr m

theorem sameButByteOrder_iff {s t : State} : sameButByteOrder s t ↔ sameWords s t := by
  constructor
  · rintro ⟨hm, h⟩
    refine ⟨t.cfg.byteOrder, t.mem, hm, ?_⟩
    obtain ⟨⟨⟩⟩ := s
    obtain ⟨⟨⟩⟩ := t
    simp only [State.mk.injEq, Config.mk.injEq] at h
    simp only [State.conceal, State.mk.injEq, Config.mk.injEq]
    tauto
  · rintro ⟨o, m, hm, rfl⟩
    exact ⟨hm, rfl⟩

/-- What a word reads after an aligned store depends on the byte order no more than it did before it (R42). -/
theorem readWord_writeWord_rel {m m' : Memory} {o o' : ByteOrder}
    (h : ∀ a, a % 4 = 0 → m'.readWord o' a = m.readWord o a) {addr : Word} (hal : aligned addr = true)
    (v : Word) : ∀ a, a % 4 = 0 →
      (m'.writeWord o' addr.toNat v).readWord o' a = (m.writeWord o addr.toNat v).readWord o a := by
  intro a ha
  have hmod : addr.toNat % 4 = 0 := by simpa [aligned] using hal
  by_cases heq : a = addr.toNat
  · rw [heq, readWord_writeWord_same, readWord_writeWord_same]
  · rw [readWord_writeWord_disjoint m' _ _ v (by omega), readWord_writeWord_disjoint m _ _ v (by omega),
      h a ha]

theorem sameWords_simulation : Simulation sameWords where
  cfg := by rintro s _ ⟨o, m, hm, rfl⟩; rfl
  reg := by rintro s _ ⟨o, m, hm, rfl⟩ a; exact conceal_reg ..
  cwp := by rintro s _ ⟨o, m, hm, rfl⟩; rfl
  icc := by rintro s _ ⟨o, m, hm, rfl⟩; rfl
  pc := by rintro s _ ⟨o, m, hm, rfl⟩; rfl
  npc := by rintro s _ ⟨o, m, hm, rfl⟩; rfl
  annul := by rintro s _ ⟨o, m, hm, rfl⟩; rfl
  halted := by rintro s _ ⟨o, m, hm, rfl⟩; rfl
  readWord := by rintro s _ ⟨o, m, hm, rfl⟩ addr hal; exact hm _ (by simpa [aligned] using hal)
  setReg := by
    rintro s _ ⟨o, m, hm, rfl⟩ a v
    exact ⟨o, m, by simpa using hm, by rw [conceal_setReg, setReg_psr]⟩
  setIcc := by rintro s _ ⟨o, m, hm, rfl⟩ v; exact ⟨o, m, hm, rfl⟩
  setCwp := by rintro s _ ⟨o, m, hm, rfl⟩ w; exact ⟨o, m, hm, rfl⟩
  storeWord := by
    rintro s _ ⟨o, m, hm, rfl⟩ addr v hal
    exact ⟨o, _, readWord_writeWord_rel hm hal v, conceal_storeWord ..⟩
  advance := by rintro s _ ⟨o, m, hm, rfl⟩; exact ⟨o, m, hm, rfl⟩
  jump := by rintro s _ ⟨o, m, hm, rfl⟩ target a; exact ⟨o, m, hm, rfl⟩
  halt := by rintro s _ ⟨o, m, hm, rfl⟩; exact ⟨o, m, hm, rfl⟩
  skipAnnulled := by rintro s _ ⟨o, m, hm, rfl⟩; exact ⟨o, m, hm, rfl⟩

theorem sameOutcome_of_outcomeRel {r r' : Result} (h : OutcomeRel sameWords r r') :
    sameOutcomeButByteOrder r r' := by
  cases h with
  | next hst => exact sameButByteOrder_iff.2 hst
  | fault f | refused f => rfl

/-- Settles O25: the states that differ in the byte order only are a simulation. -/
theorem byteOrderUnobservable : Obligations.ByteOrderUnobservable := by
  unfold Obligations.ByteOrderUnobservable
  exact fun s t h => sameOutcome_of_outcomeRel (sameWords_simulation.step_rel (sameButByteOrder_iff.1 h))

end Sys2Proof.Machine

/-! The decoder and the encoder: each undoes the other, up to the unused bits (R55 to R68, R72). -/

namespace Sys2Proof

/-! ### Words that agree under a mask -/

section Agree

variable {w u mask : Word}

theorem bitOf_congr (h : w &&& mask = u &&& mask) {i : Nat} (hi : mask.getLsbD i = true) :
    bitOf w i = bitOf u i := by
  have hbit : bitOf w i = (u &&& mask).getLsbD i := bitOf_of_match h hi
  rw [hbit, BitVec.getLsbD_and, hi, Bool.and_true, bitOf]

theorem field_congr (h : w &&& mask = u &&& mask) {lo len : Nat}
    (hm : ∀ i, i < len → mask.getLsbD (lo + i) = true) : field w lo len = field u lo len := by
  refine field_eq fun i hi => ?_
  have hbit : bitOf w (lo + i) = bitOf u (lo + i) := bitOf_congr h (hm i hi)
  simpa [field, hi, bitOf] using hbit

theorem eq_of_and_full (h : w &&& 0xFFFFFFFF = u &&& 0xFFFFFFFF) : w = u := by
  rwa [show (0xFFFFFFFF : Word) = BitVec.allOnes 32 from rfl, BitVec.and_allOnes, BitVec.and_allOnes] at h

/-- Words that agree under a mask agree under every part of it. -/
theorem and_congr_of_subset (small : Word) (hs : mask &&& small = small) (h : w &&& mask = u &&& mask) :
    w &&& small = u &&& small := by
  rw [← hs, ← BitVec.and_assoc, h, BitVec.and_assoc]

end Agree

/-! ### What the decoder reads from a word of each format, whatever its unused bits -/

section Formats

variable {w : Word} {op : BitVec 4} {m m1 m0 : Bool} {rd r1 r2 : RegAddr} {i13 : BitVec 13}
  {i20 : BitVec 20} {i22 : BitVec 22}

/-- Format RRR, but for bit 26, which the rotates leave unused. -/
structure ReadsRRR (w : Word) (op : BitVec 4) (m0 : Bool) (rd r1 r2 : RegAddr) : Prop where
  op : fieldOp w = op
  bit27 : bitOf w 27 = false
  bit25 : bitOf w 25 = m0
  rd : fieldRd w = rd
  r1 : fieldR1 w = r1
  r2 : fieldR2 w = r2

theorem readsRRR_of_rotate (h : w &&& 0xFA03FFFF = packRRR op m1 m0 rd r1 r2 &&& 0xFA03FFFF) :
    ReadsRRR w op m0 rd r1 r2 where
  op := (field_congr h (by decide)).trans (packRRR_op ..)
  bit27 := (bitOf_congr h (by decide)).trans (packRRR_bit27 ..)
  bit25 := (bitOf_congr h (by decide)).trans (packRRR_bit25 ..)
  rd := (field_congr h (by decide)).trans (packRRR_rd ..)
  r1 := (field_congr h (by decide)).trans (packRRR_r1 ..)
  r2 := (field_congr h (by decide)).trans (packRRR_r2 ..)

theorem readsRRR (h : w &&& 0xFE03FFFF = packRRR op m1 m0 rd r1 r2 &&& 0xFE03FFFF) :
    bitOf w 26 = m1 ∧ ReadsRRR w op m0 rd r1 r2 :=
  ⟨(bitOf_congr h (by decide)).trans (packRRR_bit26 ..),
    readsRRR_of_rotate (and_congr_of_subset _ (by decide) h)⟩

/-- Format I13, but for bit 26. -/
structure ReadsI13 (w : Word) (op : BitVec 4) (m0 : Bool) (rd : RegAddr) (i13 : BitVec 13)
    (r2 : RegAddr) : Prop where
  op : fieldOp w = op
  bit27 : bitOf w 27 = true
  bit25 : bitOf w 25 = m0
  rd : fieldRd w = rd
  imm : fieldImm13 w = i13
  r2 : fieldR2 w = r2

theorem readsI13_of_rotate (h : w &&& 0xFBFFFFFF = packI13 op m1 m0 rd i13 r2 &&& 0xFBFFFFFF) :
    ReadsI13 w op m0 rd i13 r2 where
  op := (field_congr h (by decide)).trans (packI13_op ..)
  bit27 := (bitOf_congr h (by decide)).trans (packI13_bit27 ..)
  bit25 := (bitOf_congr h (by decide)).trans (packI13_bit25 ..)
  rd := (field_congr h (by decide)).trans (packI13_rd ..)
  imm := (field_congr h (by decide)).trans (packI13_imm13 ..)
  r2 := (field_congr h (by decide)).trans (packI13_r2 ..)

theorem readsI13 (h : w &&& 0xFFFFFFFF = packI13 op m1 m0 rd i13 r2 &&& 0xFFFFFFFF) :
    bitOf w 26 = m1 ∧ ReadsI13 w op m0 rd i13 r2 :=
  ⟨(bitOf_congr h (by decide)).trans (packI13_bit26 ..),
    readsI13_of_rotate (and_congr_of_subset _ (by decide) h)⟩

/-- Format M2. -/
theorem readsM2 (h : w &&& 0xFC000FFF = packM2 op m r2 rd &&& 0xFC000FFF) :
    fieldOp w = op ∧ bitOf w 27 = false ∧ bitOf w 26 = m ∧ fieldR2 w = r2 ∧ fieldRd w = rd :=
  ⟨(field_congr h (by decide)).trans (packM2_op ..),
    (bitOf_congr h (by decide)).trans (packM2_bit27 ..),
    (bitOf_congr h (by decide)).trans (packM2_bit26 ..),
    (field_congr h (by decide)).trans (packM2_r2 ..),
    (field_congr h (by decide)).trans (packM2_rd ..)⟩

/-- Format I20. -/
theorem readsI20 (h : w &&& 0xFFFFFFFF = packI20 op m i20 rd &&& 0xFFFFFFFF) :
    fieldOp w = op ∧ bitOf w 27 = true ∧ bitOf w 26 = m ∧ fieldImm20 w = i20 ∧ fieldRd w = rd :=
  ⟨(field_congr h (by decide)).trans (packI20_op ..),
    (bitOf_congr h (by decide)).trans (packI20_bit27 ..),
    (bitOf_congr h (by decide)).trans (packI20_bit26 ..),
    (field_congr h (by decide)).trans (packI20_imm20 ..),
    (field_congr h (by decide)).trans (packI20_rd ..)⟩

/-- Format W. -/
theorem readsW (h : w &&& 0xF8000FFF = packW m r2 rd &&& 0xF8000FFF) :
    fieldOp w = 0x7#4 ∧ bitOf w 27 = m ∧ fieldR2 w = r2 ∧ fieldRd w = rd :=
  ⟨(field_congr h (by decide)).trans (packW_op ..),
    (bitOf_congr h (by decide)).trans (packW_bit27 ..),
    (field_congr h (by decide)).trans (packW_r2 ..),
    (field_congr h (by decide)).trans (packW_rd ..)⟩

/-- Format LI. -/
theorem readsLI (h : w &&& 0xFFFFFFFF = packLI i22 rd &&& 0xFFFFFFFF) :
    fieldOp w = 0xA#4 ∧ fieldImm22 w = i22 ∧ fieldRd w = rd :=
  ⟨(field_congr h (by decide)).trans (packLI_op ..),
    (field_congr h (by decide)).trans (packLI_imm22 ..),
    (field_congr h (by decide)).trans (packLI_rd ..)⟩

end Formats

/-! ### The decoder by opcode (R72) -/

section Opcode

variable (m : Logic2Map) {w : Word}

theorem decode_of_fieldOp_zero (h : fieldOp w = 0x0#4) :
    decode m w = if w = 0 then .ok .nop else .error (.reservedEncoding w) := by simp [decode, h]
theorem decode_of_fieldOp_three (h : fieldOp w = 0x3#4) : decode m w = decodeLogic2 m w := by
  simp [decode, h]
theorem decode_of_fieldOp_four (h : fieldOp w = 0x4#4) : decode m w = .ok (decodeShift w) := by
  simp [decode, h]
theorem decode_of_fieldOp_five (h : fieldOp w = 0x5#4) : decode m w = .ok (decodeRotate w) := by
  simp [decode, h]
theorem decode_of_fieldOp_six (h : fieldOp w = 0x6#4) : decode m w = decodeMemory w := by
  simp [decode, h]
theorem decode_of_fieldOp_seven (h : fieldOp w = 0x7#4) : decode m w = .ok (decodeWindow w) := by
  simp [decode, h]
theorem decode_of_fieldOp_eight (h : fieldOp w = 0x8#4) : decode m w = .ok (decodeLinkJump w) := by
  simp [decode, h]
theorem decode_of_fieldOp_nine (h : fieldOp w = 0x9#4) : decode m w = decodeCondJump w := by
  simp [decode, h]
theorem decode_of_fieldOp_ten (h : fieldOp w = 0xA#4) :
    decode m w = .ok (.li (fieldRd w) (fieldImm22 w)) := by simp [decode, h]
theorem decode_of_fieldOp_fifteen (h : fieldOp w = 0xF#4) : decode m w = .ok .halt := by
  simp [decode, h]

theorem decode_of_fieldOp_illegal (h1 : 0xB ≤ (fieldOp w).toNat) (h2 : (fieldOp w).toNat ≤ 0xE) :
    decode m w = .error (.illegalInstruction w) := by
  have hop : (fieldOp w).toNat = 0xB ∨ (fieldOp w).toNat = 0xC ∨ (fieldOp w).toNat = 0xD ∨
      (fieldOp w).toNat = 0xE := by omega
  rcases hop with h | h | h | h <;> simp only [decode, h]

end Opcode

/-! ### From an instruction to its words -/

theorem literal_bne_shifted : (Logic2Map.literal != Logic2Map.shifted) = true := rfl
theorem literal_beq_shifted : (Logic2Map.literal == Logic2Map.shifted) = false := rfl

/-- A word that agrees with the encoding of an instruction on the bits the instruction uses decodes to it. -/
theorem decode_of_and_usedMask {m : Logic2Map} {i : Instr} (hi : wellFormed m i = true) {w : Word}
    (h : w &&& usedMask i = encode m i &&& usedMask i) : decode m w = .ok i := by
  cases i with
  | nop =>
    obtain rfl : w = 0 := eq_of_and_full h
    rw [decode_of_fieldOp_zero m (by decide), if_pos rfl]
  | sub | subcc | add | addcc =>
    obtain ⟨h26, hr⟩ := readsRRR h
    simp only [decode_of_fieldOp_one m hr.op, decodeAddSub, hr.bit27, h26, hr.bit25, hr.rd, hr.r1, hr.r2]
  | subi | subcci | addi | addcci =>
    obtain ⟨h26, hr⟩ := readsI13 h
    simp only [decode_of_fieldOp_one m hr.op, decodeAddSub, hr.bit27, h26, hr.bit25, hr.rd, hr.imm, hr.r2]
  | or | and | xor | not =>
    obtain ⟨h26, hr⟩ := readsRRR h
    simp only [decode_of_fieldOp_two m hr.op, decodeLogic1, hr.bit27, h26, hr.bit25, hr.rd, hr.r1, hr.r2]
  | ori | andi | xori | noti =>
    obtain ⟨h26, hr⟩ := readsI13 h
    simp only [decode_of_fieldOp_two m hr.op, decodeLogic1, hr.bit27, h26, hr.bit25, hr.rd, hr.imm, hr.r2]
  | nor =>
    obtain ⟨h26, hr⟩ := readsRRR h
    rw [decode_of_fieldOp_three m hr.op]
    cases m <;> simp only [decodeLogic2, decodeLogic2Literal, decodeLogic2Shifted, decodeLogic2Strict, hr.bit27,
      h26, hr.bit25, hr.rd, hr.r1, hr.r2]
  | nand | lz =>
    obtain ⟨h26, hr⟩ := readsRRR h
    rw [decode_of_fieldOp_three m hr.op]
    cases m with
    | literal => simp only [decodeLogic2, decodeLogic2Literal, hr.bit27, h26, hr.bit25, hr.rd,
        hr.r1, hr.r2, literal_bne_shifted, literal_beq_shifted]
    | shifted => simp only [decodeLogic2, decodeLogic2Shifted, hr.bit27, h26, hr.bit25, hr.rd,
        hr.r1, hr.r2, bne_self_eq_false, BEq.rfl]
    | strict => cases hi
  | pop =>
    obtain ⟨h26, hr⟩ := readsRRR h
    rw [decode_of_fieldOp_three m hr.op]
    cases m with
    | shifted => simp only [decodeLogic2, decodeLogic2Shifted, hr.bit27, h26, hr.bit25, hr.rd, hr.r1, hr.r2]
    | literal | strict => cases hi
  | nori =>
    obtain ⟨h26, hr⟩ := readsI13 h
    rw [decode_of_fieldOp_three m hr.op]
    cases m <;> simp only [decodeLogic2, decodeLogic2Literal, decodeLogic2Shifted, decodeLogic2Strict, hr.bit27,
      h26, hr.bit25, hr.rd, hr.imm, hr.r2]
  | nandi | lzi =>
    obtain ⟨h26, hr⟩ := readsI13 h
    rw [decode_of_fieldOp_three m hr.op]
    cases m with
    | literal => simp only [decodeLogic2, decodeLogic2Literal, hr.bit27, h26, hr.bit25, hr.rd,
        hr.imm, hr.r2, literal_bne_shifted, literal_beq_shifted]
    | shifted => simp only [decodeLogic2, decodeLogic2Shifted, hr.bit27, h26, hr.bit25, hr.rd,
        hr.imm, hr.r2, bne_self_eq_false, BEq.rfl]
    | strict => cases hi
  | popi =>
    obtain ⟨h26, hr⟩ := readsI13 h
    rw [decode_of_fieldOp_three m hr.op]
    cases m with
    | shifted => simp only [decodeLogic2, decodeLogic2Shifted, hr.bit27, h26, hr.bit25, hr.rd, hr.imm, hr.r2]
    | literal | strict => cases hi
  | shl | shr | shlx | shrx =>
    obtain ⟨h26, hr⟩ := readsRRR h
    simp only [decode_of_fieldOp_four m hr.op, decodeShift, hr.bit27, h26, hr.bit25, hr.rd, hr.r1, hr.r2]
  | shli | shri | shlxi | shrxi =>
    obtain ⟨h26, hr⟩ := readsI13 h
    simp only [decode_of_fieldOp_four m hr.op, decodeShift, hr.bit27, h26, hr.bit25, hr.rd, hr.imm, hr.r2]
  | rol | ror =>
    have hr := readsRRR_of_rotate h
    simp only [decode_of_fieldOp_five m hr.op, decodeRotate, hr.bit27, hr.bit25, hr.rd, hr.r1, hr.r2]
  | roli | rori =>
    have hr := readsI13_of_rotate h
    simp only [decode_of_fieldOp_five m hr.op, decodeRotate, hr.bit27, hr.bit25, hr.rd, hr.imm, hr.r2]
  | ld | st =>
    obtain ⟨hop, h27, h26, rfl, rfl⟩ := readsM2 h
    simp only [decode_of_fieldOp_six m hop, decodeMemory, h27, h26]
  | sti =>
    obtain ⟨hop, h27, h26, rfl, rfl⟩ := readsI20 h
    simp only [decode_of_fieldOp_six m hop, decodeMemory, h27, h26]
  | wdec | winc =>
    obtain ⟨hop, h27, rfl, rfl⟩ := readsW h
    simp only [decode_of_fieldOp_seven m hop, decodeWindow, h27]
  | jl | jlr =>
    obtain ⟨hop, h27, h26, rfl, rfl⟩ := readsM2 h
    simp only [decode_of_fieldOp_eight m hop, decodeLinkJump, h27, h26]
  | jli | jlri =>
    obtain ⟨hop, h27, h26, rfl, rfl⟩ := readsI20 h
    simp only [decode_of_fieldOp_eight m hop, decodeLinkJump, h27, h26]
  | jc | jcA | jcr | jcrA =>
    obtain ⟨h26, hr⟩ := readsRRR h
    rw [decode_of_fieldOp_nine m hr.op, decodeCondJump, hr.r2, if_pos (c := iccBitOk _ = true) hi]
    simp only [hr.bit27, h26, hr.bit25, hr.rd, hr.r1]
  | jci | jciA | jcri | jcriA =>
    obtain ⟨h26, hr⟩ := readsI13 h
    rw [decode_of_fieldOp_nine m hr.op, decodeCondJump, hr.r2, if_pos (c := iccBitOk _ = true) hi]
    simp only [hr.bit27, h26, hr.bit25, hr.rd, hr.imm]
  | li =>
    obtain ⟨hop, rfl, rfl⟩ := readsLI h
    exact decode_of_fieldOp_ten m hop
  | halt =>
    exact decode_of_fieldOp_fifteen m ((field_congr h (by decide)).trans (Laws.EncodeOpcode.halt m))

/-- Settles O1: the encoding agrees with itself. -/
theorem decodeOfEncode : Obligations.DecodeOfEncode := by
  unfold Obligations.DecodeOfEncode
  exact fun m i hi => decode_of_and_usedMask hi rfl

end Sys2Proof

/-! From a word to its instruction and back: the unused bits (R68, R72). -/

namespace Sys2Proof

/-! ### A word without its unused bits is the packing of its fields (R55 to R63) -/

section Repack

variable {w : Word} {op : BitVec 4} {m m1 m0 : Bool}

theorem packRRR_fields (hop : fieldOp w = op) (h27 : bitOf w 27 = false) (h26 : bitOf w 26 = m1)
    (h25 : bitOf w 25 = m0) :
    packRRR op m1 m0 (fieldRd w) (fieldR1 w) (fieldR2 w) = w &&& 0xFE03FFFF := by
  subst hop h26 h25
  rw [BitVec.and_comm, packRRR, ← h27]
  refine BitVec.eq_of_getLsbD_eq fun i hi => ?_
  simp only [BitVec.getLsbD_append, BitVec.getLsbD_and, fieldOp, fieldRd, fieldR1, fieldR2, field, bitOf,
    BitVec.getLsbD_extractLsb', BitVec.getLsbD_ofBool]
  interval_cases i <;> rfl

theorem packRRR_fields_rotate (hop : fieldOp w = op) (h27 : bitOf w 27 = false) (h25 : bitOf w 25 = m0) :
    packRRR op false m0 (fieldRd w) (fieldR1 w) (fieldR2 w) = w &&& 0xFA03FFFF := by
  subst hop h25
  rw [BitVec.and_comm, packRRR]
  nth_rewrite 1 [← h27]
  refine BitVec.eq_of_getLsbD_eq fun i hi => ?_
  simp only [BitVec.getLsbD_append, BitVec.getLsbD_and, fieldOp, fieldRd, fieldR1, fieldR2, field, bitOf,
    BitVec.getLsbD_extractLsb', BitVec.getLsbD_ofBool]
  interval_cases i <;> rfl

theorem packI13_fields (hop : fieldOp w = op) (h27 : bitOf w 27 = true) (h26 : bitOf w 26 = m1)
    (h25 : bitOf w 25 = m0) :
    packI13 op m1 m0 (fieldRd w) (fieldImm13 w) (fieldR2 w) = w &&& 0xFFFFFFFF := by
  subst hop h26 h25
  rw [BitVec.and_comm, packI13, ← h27]
  refine BitVec.eq_of_getLsbD_eq fun i hi => ?_
  simp only [BitVec.getLsbD_append, BitVec.getLsbD_and, fieldOp, fieldRd, fieldImm13, fieldR2, field, bitOf,
    BitVec.getLsbD_extractLsb', BitVec.getLsbD_ofBool]
  interval_cases i <;> rfl

theorem packI13_fields_rotate (hop : fieldOp w = op) (h27 : bitOf w 27 = true) (h25 : bitOf w 25 = m0) :
    packI13 op false m0 (fieldRd w) (fieldImm13 w) (fieldR2 w) = w &&& 0xFBFFFFFF := by
  subst hop h25
  rw [BitVec.and_comm, packI13, ← h27]
  refine BitVec.eq_of_getLsbD_eq fun i hi => ?_
  simp only [BitVec.getLsbD_append, BitVec.getLsbD_and, fieldOp, fieldRd, fieldImm13, fieldR2, field, bitOf,
    BitVec.getLsbD_extractLsb', BitVec.getLsbD_ofBool]
  interval_cases i <;> rfl

theorem packM2_fields (hop : fieldOp w = op) (h27 : bitOf w 27 = false) (h26 : bitOf w 26 = m) :
    packM2 op m (fieldR2 w) (fieldRd w) = w &&& 0xFC000FFF := by
  subst hop h26
  rw [BitVec.and_comm, packM2, ← h27]
  refine BitVec.eq_of_getLsbD_eq fun i hi => ?_
  simp only [BitVec.getLsbD_append, BitVec.getLsbD_and, fieldOp, fieldRd, fieldR2, field, bitOf,
    BitVec.getLsbD_extractLsb', BitVec.getLsbD_ofBool]
  interval_cases i <;> rfl

theorem packI20_fields (hop : fieldOp w = op) (h27 : bitOf w 27 = true) (h26 : bitOf w 26 = m) :
    packI20 op m (fieldImm20 w) (fieldRd w) = w &&& 0xFFFFFFFF := by
  subst hop h26
  rw [BitVec.and_comm, packI20, ← h27]
  refine BitVec.eq_of_getLsbD_eq fun i hi => ?_
  simp only [BitVec.getLsbD_append, BitVec.getLsbD_and, fieldOp, fieldRd, fieldImm20, field, bitOf,
    BitVec.getLsbD_extractLsb', BitVec.getLsbD_ofBool]
  interval_cases i <;> rfl

theorem packW_fields (hop : fieldOp w = 0x7#4) (h27 : bitOf w 27 = m) :
    packW m (fieldR2 w) (fieldRd w) = w &&& 0xF8000FFF := by
  subst h27
  rw [BitVec.and_comm, packW, ← hop]
  refine BitVec.eq_of_getLsbD_eq fun i hi => ?_
  simp only [BitVec.getLsbD_append, BitVec.getLsbD_and, fieldOp, fieldRd, fieldR2, field, bitOf,
    BitVec.getLsbD_extractLsb', BitVec.getLsbD_ofBool]
  interval_cases i <;> rfl

theorem packLI_fields (hop : fieldOp w = 0xA#4) :
    packLI (fieldImm22 w) (fieldRd w) = w &&& 0xFFFFFFFF := by
  rw [BitVec.and_comm, packLI, ← hop]
  refine BitVec.eq_of_getLsbD_eq fun i hi => ?_
  simp only [BitVec.getLsbD_append, BitVec.getLsbD_and, fieldOp, fieldRd, fieldImm22, field,
    BitVec.getLsbD_extractLsb']
  interval_cases i <;> rfl

theorem halt_fields (hop : fieldOp w = 0xF#4) : (0xF0000000 : Word) = w &&& 0xF0000000 := by
  rw [BitVec.and_comm]
  refine (show (0xF0000000 : Word) = fieldOp w ++ 0#28 by rw [hop]; rfl).trans ?_
  refine BitVec.eq_of_getLsbD_eq fun i hi => ?_
  simp only [BitVec.getLsbD_append, BitVec.getLsbD_and, fieldOp, field, BitVec.getLsbD_extractLsb']
  interval_cases i <;> rfl

end Repack

/-! ### What a word that decodes is, by opcode (R72) -/

/-- The instruction that the word `w` decodes to, one case per opcode. -/
inductive Decoded (m : Logic2Map) (w : Word) : Instr → Prop
  | nop (hw : w = 0) : Decoded m w .nop
  | addSub (hop : fieldOp w = 0x1#4) : Decoded m w (decodeAddSub w)
  | logic1 (hop : fieldOp w = 0x2#4) : Decoded m w (decodeLogic1 w)
  | logic2 {i : Instr} (hop : fieldOp w = 0x3#4) (h : decodeLogic2 m w = .ok i) : Decoded m w i
  | shift (hop : fieldOp w = 0x4#4) : Decoded m w (decodeShift w)
  | rotate (hop : fieldOp w = 0x5#4) : Decoded m w (decodeRotate w)
  | memory {i : Instr} (hop : fieldOp w = 0x6#4) (h : decodeMemory w = .ok i) : Decoded m w i
  | window (hop : fieldOp w = 0x7#4) : Decoded m w (decodeWindow w)
  | linkJump (hop : fieldOp w = 0x8#4) : Decoded m w (decodeLinkJump w)
  | condJump {i : Instr} (hop : fieldOp w = 0x9#4) (h : decodeCondJump w = .ok i) : Decoded m w i
  | li (hop : fieldOp w = 0xA#4) : Decoded m w (.li (fieldRd w) (fieldImm22 w))
  | halt (hop : fieldOp w = 0xF#4) : Decoded m w .halt

theorem decoded_of_decode {m : Logic2Map} {w : Word} {i : Instr} (h : decode m w = .ok i) :
    Decoded m w i := by
  unfold decode at h
  split at h
  case h_1 hop =>
    split at h
    · next hw => cases h; exact .nop hw
    · cases h
  case h_2 hop => cases h; exact .addSub (BitVec.eq_of_toNat_eq hop)
  case h_3 hop => cases h; exact .logic1 (BitVec.eq_of_toNat_eq hop)
  case h_4 hop => exact .logic2 (BitVec.eq_of_toNat_eq hop) h
  case h_5 hop => cases h; exact .shift (BitVec.eq_of_toNat_eq hop)
  case h_6 hop => cases h; exact .rotate (BitVec.eq_of_toNat_eq hop)
  case h_7 hop => exact .memory (BitVec.eq_of_toNat_eq hop) h
  case h_8 hop => cases h; exact .window (BitVec.eq_of_toNat_eq hop)
  case h_9 hop => cases h; exact .linkJump (BitVec.eq_of_toNat_eq hop)
  case h_10 hop => exact .condJump (BitVec.eq_of_toNat_eq hop) h
  case h_11 hop => cases h; exact .li (BitVec.eq_of_toNat_eq hop)
  case h_12 hop => cases h; exact .halt (BitVec.eq_of_toNat_eq hop)
  case h_13 => cases h

/-! ### From a word to the encoding of its instruction -/

/-- `i` has an encoding, which is `w` with the bits that `i` does not use cleared (R68). -/
def EncodedBy (m : Logic2Map) (w : Word) (i : Instr) : Prop :=
  wellFormed m i = true ∧ encode m i = w &&& usedMask i

section EncodedBy

variable (m : Logic2Map) {w : Word} {i : Instr}

/-- The families in which every setting of bits 27, 26 and 25 is a form. -/
theorem encodedBy_three_operand :
    (fieldOp w = 0x1#4 → EncodedBy m w (decodeAddSub w)) ∧
    (fieldOp w = 0x2#4 → EncodedBy m w (decodeLogic1 w)) ∧
    (fieldOp w = 0x3#4 → EncodedBy .shifted w (decodeLogic2Shifted w)) ∧
    (fieldOp w = 0x4#4 → EncodedBy m w (decodeShift w)) := by
  refine ⟨fun hop => ?_, fun hop => ?_, fun hop => ?_, fun hop => ?_⟩
  all_goals
    simp only [decodeAddSub, decodeLogic1, decodeLogic2Shifted, decodeShift]
    cases h27 : bitOf w 27 with
    | false =>
      cases h26 : bitOf w 26 <;> cases h25 : bitOf w 25 <;>
        exact ⟨rfl, packRRR_fields hop h27 h26 h25⟩
    | true =>
      cases h26 : bitOf w 26 <;> cases h25 : bitOf w 25 <;>
        exact ⟨rfl, packI13_fields hop h27 h26 h25⟩

theorem encodedBy_decodeRotate (hop : fieldOp w = 0x5#4) : EncodedBy m w (decodeRotate w) := by
  unfold decodeRotate
  cases h27 : bitOf w 27 with
  | false => cases h25 : bitOf w 25 <;> exact ⟨rfl, packRRR_fields_rotate hop h27 h25⟩
  | true => cases h25 : bitOf w 25 <;> exact ⟨rfl, packI13_fields_rotate hop h27 h25⟩

/-- Under `literal` T = 1 has no form. -/
theorem encodedBy_decodeLogic2Literal (hop : fieldOp w = 0x3#4) (h : decodeLogic2Literal w = .ok i) :
    EncodedBy .literal w i := by
  unfold decodeLogic2Literal at h
  cases h27 : bitOf w 27 with
  | false =>
    cases h26 : bitOf w 26 <;> cases h25 : bitOf w 25 <;> rw [h27, h26, h25] at h <;> cases h <;>
      exact ⟨rfl, packRRR_fields hop h27 h26 h25⟩
  | true =>
    cases h26 : bitOf w 26 <;> cases h25 : bitOf w 25 <;> rw [h27, h26, h25] at h <;> cases h <;>
      exact ⟨rfl, packI13_fields hop h27 h26 h25⟩

/-- Under `strict` only T = 0 has a form. -/
theorem encodedBy_decodeLogic2Strict (hop : fieldOp w = 0x3#4) (h : decodeLogic2Strict w = .ok i) :
    EncodedBy .strict w i := by
  unfold decodeLogic2Strict at h
  split at h
  · next h27 h26 h25 => cases h; exact ⟨rfl, packRRR_fields hop h27 h26 h25⟩
  · next h27 h26 h25 => cases h; exact ⟨rfl, packI13_fields hop h27 h26 h25⟩
  · cases h
  · cases h

theorem encodedBy_decodeLogic2 (hop : fieldOp w = 0x3#4) (h : decodeLogic2 m w = .ok i) :
    EncodedBy m w i := by
  cases m with
  | literal => exact encodedBy_decodeLogic2Literal hop h
  | shifted =>
    cases h
    obtain ⟨-, -, hshifted, -⟩ := encodedBy_three_operand (w := w) .shifted
    exact hshifted hop
  | strict => exact encodedBy_decodeLogic2Strict hop h

theorem encodedBy_decodeMemory (hop : fieldOp w = 0x6#4) (h : decodeMemory w = .ok i) :
    EncodedBy m w i := by
  unfold decodeMemory at h
  split at h
  · next h27 h26 => cases h; exact ⟨rfl, packM2_fields hop h27 h26⟩
  · next h27 h26 => cases h; exact ⟨rfl, packM2_fields hop h27 h26⟩
  · next h27 h26 => cases h; exact ⟨rfl, packI20_fields hop h27 h26⟩
  · cases h

theorem encodedBy_decodeWindow (hop : fieldOp w = 0x7#4) : EncodedBy m w (decodeWindow w) := by
  unfold decodeWindow
  cases h27 : bitOf w 27 <;> exact ⟨rfl, packW_fields hop h27⟩

theorem encodedBy_decodeLinkJump (hop : fieldOp w = 0x8#4) : EncodedBy m w (decodeLinkJump w) := by
  unfold decodeLinkJump
  cases h27 : bitOf w 27 with
  | false => cases h26 : bitOf w 26 <;> exact ⟨rfl, packM2_fields hop h27 h26⟩
  | true => cases h26 : bitOf w 26 <;> exact ⟨rfl, packI20_fields hop h27 h26⟩

theorem encodedBy_decodeCondJump (hop : fieldOp w = 0x9#4) (h : decodeCondJump w = .ok i) :
    EncodedBy m w i := by
  unfold decodeCondJump at h
  split at h
  · next htype =>
    cases h27 : bitOf w 27 with
    | false =>
      cases h26 : bitOf w 26 <;> cases h25 : bitOf w 25 <;> rw [h27, h26, h25] at h <;> cases h <;>
        exact ⟨htype, packRRR_fields hop h27 h26 h25⟩
    | true =>
      cases h26 : bitOf w 26 <;> cases h25 : bitOf w 25 <;> rw [h27, h26, h25] at h <;> cases h <;>
        exact ⟨htype, packI13_fields hop h27 h26 h25⟩
  · cases h

end EncodedBy

theorem encodedBy_of_decode {m : Logic2Map} {w : Word} {i : Instr} (h : decode m w = .ok i) :
    EncodedBy m w i := by
  obtain ⟨haddSub, hlogic1, -, hshift⟩ := encodedBy_three_operand (w := w) m
  cases decoded_of_decode h with
  | nop hw => subst hw; exact ⟨rfl, rfl⟩
  | addSub hop => exact haddSub hop
  | logic1 hop => exact hlogic1 hop
  | logic2 hop h2 => exact encodedBy_decodeLogic2 m hop h2
  | shift hop => exact hshift hop
  | rotate hop => exact encodedBy_decodeRotate m hop
  | memory hop h6 => exact encodedBy_decodeMemory m hop h6
  | window hop => exact encodedBy_decodeWindow m hop
  | linkJump hop => exact encodedBy_decodeLinkJump m hop
  | condJump hop h9 => exact encodedBy_decodeCondJump m hop h9
  | li hop => exact ⟨rfl, packLI_fields hop⟩
  | halt hop => exact ⟨rfl, halt_fields hop⟩

/-- Settles O2, by the opcode of the word. -/
theorem encodeOfDecode : Obligations.EncodeOfDecode := by
  unfold Obligations.EncodeOfDecode
  exact fun m w i h => encodedBy_of_decode h

/-! ### Unused bits (R68) -/

/-- The encoder writes every unused bit as 0: an instruction is what its own encoding decodes to. -/
theorem encode_and_usedMask {m : Logic2Map} {i : Instr} (hi : wellFormed m i = true) :
    encode m i &&& usedMask i = encode m i :=
  (encodedBy_of_decode (decode_of_and_usedMask hi rfl)).2.symm

theorem decode_congr {m : Logic2Map} {w v : Word} {i : Instr} (h : decode m w = .ok i)
    (hv : w &&& usedMask i = v &&& usedMask i) : decode m v = .ok i := by
  obtain ⟨hi, henc⟩ := encodedBy_of_decode h
  exact decode_of_and_usedMask hi (by rw [encode_and_usedMask hi, henc, hv])

/-- Settles O3, by the round trip in both directions. -/
theorem unusedBitsIgnored : Obligations.UnusedBitsIgnored := by
  unfold Obligations.UnusedBitsIgnored
  exact ⟨fun m w v i => decode_congr, fun m i => encode_and_usedMask⟩

end Sys2Proof

/-! Which words are no instruction, and the opcode table (R69, R70, R72). -/

namespace Sys2Proof

/-! ### The words that the decoder refuses under `literal` -/

/-- A field of two bits, bit by bit. -/
theorem field_two_eq_iff {w : Word} {lo : Nat} {b1 b0 : Bool} :
    field w lo 2 = BitVec.ofBool b1 ++ BitVec.ofBool b0 ↔ bitOf w (lo + 1) = b1 ∧ bitOf w lo = b0 := by
  have hbits : field w lo 2 = BitVec.ofBool (bitOf w (lo + 1)) ++ BitVec.ofBool (bitOf w lo) := by
    refine field_eq fun i hi => ?_
    rw [BitVec.getLsbD_append]
    interval_cases i <;> simp [bitOf]
  rw [hbits]
  cases bitOf w (lo + 1) <;> cases bitOf w lo <;> cases b1 <;> cases b0 <;> decide

/-- Why the default decoder refuses the word `w`, one case per reason (R69, R70). -/
inductive Refused (w : Word) : DecodeReject → Prop
  | illegal (h1 : 0xB ≤ (fieldOp w).toNat) (h2 : (fieldOp w).toNat ≤ 0xE) :
      Refused w (.illegalInstruction w)
  | nop (hop : fieldOp w = 0x0#4) (hw : w ≠ 0) : Refused w (.reservedEncoding w)
  | logic2 (hop : fieldOp w = 0x3#4) (h26 : bitOf w 26 = false) (h25 : bitOf w 25 = true) :
      Refused w (.reservedEncoding w)
  | memory (hop : fieldOp w = 0x6#4) (h27 : bitOf w 27 = true) (h26 : bitOf w 26 = false) :
      Refused w (.reservedEncoding w)
  | condJump (hop : fieldOp w = 0x9#4) (htype : 32 ≤ (fieldR2 w).toNat) :
      Refused w (.iccBit (fieldR2 w))

theorem decodeLogic2Literal_cases (w : Word) :
    (bitOf w 26 = false ∧ bitOf w 25 = true ∧ decodeLogic2Literal w = .error (.reservedEncoding w)) ∨
      ∃ i, decodeLogic2Literal w = .ok i := by
  unfold decodeLogic2Literal
  split <;> simp_all

theorem decodeMemory_cases (w : Word) :
    (bitOf w 27 = true ∧ bitOf w 26 = false ∧ decodeMemory w = .error (.reservedEncoding w)) ∨
      ∃ i, decodeMemory w = .ok i := by
  unfold decodeMemory
  split <;> simp_all

theorem decodeCondJump_cases (w : Word) :
    (32 ≤ (fieldR2 w).toNat ∧ decodeCondJump w = .error (.iccBit (fieldR2 w))) ∨
      ∃ i, decodeCondJump w = .ok i := by
  unfold decodeCondJump
  split
  · right; split <;> exact ⟨_, rfl⟩
  · next h =>
    left
    exact ⟨by simpa [iccBitOk] using h, rfl⟩

/-- Every word decodes, or is refused for one of the reasons. -/
theorem decode_literal_cases (w : Word) :
    (∃ i, decode .literal w = .ok i) ∨ ∃ r, decode .literal w = .error r ∧ Refused w r := by
  obtain ⟨op, hop⟩ : ∃ op, fieldOp w = op := ⟨_, rfl⟩
  have hcases : op = 0x0#4 ∨ op = 0x1#4 ∨ op = 0x2#4 ∨ op = 0x3#4 ∨ op = 0x4#4 ∨ op = 0x5#4 ∨
      op = 0x6#4 ∨ op = 0x7#4 ∨ op = 0x8#4 ∨ op = 0x9#4 ∨ op = 0xA#4 ∨ op = 0xF#4 ∨
      (0xB ≤ op.toNat ∧ op.toNat ≤ 0xE) := by clear hop; revert op; decide
  rcases hcases with rfl | rfl | rfl | rfl | rfl | rfl | rfl | rfl | rfl | rfl | rfl | rfl | ⟨h1, h2⟩
  · rw [decode_of_fieldOp_zero _ hop]
    split
    · exact .inl ⟨_, rfl⟩
    · next hw => exact .inr ⟨_, rfl, .nop hop hw⟩
  · exact .inl ⟨_, decode_of_fieldOp_one _ hop⟩
  · exact .inl ⟨_, decode_of_fieldOp_two _ hop⟩
  · rw [decode_of_fieldOp_three _ hop, decodeLogic2]
    exact (decodeLogic2Literal_cases w).symm.imp id fun ⟨h26, h25, h⟩ => ⟨_, h, .logic2 hop h26 h25⟩
  · exact .inl ⟨_, decode_of_fieldOp_four _ hop⟩
  · exact .inl ⟨_, decode_of_fieldOp_five _ hop⟩
  · rw [decode_of_fieldOp_six _ hop]
    exact (decodeMemory_cases w).symm.imp id fun ⟨h27, h26, h⟩ => ⟨_, h, .memory hop h27 h26⟩
  · exact .inl ⟨_, decode_of_fieldOp_seven _ hop⟩
  · exact .inl ⟨_, decode_of_fieldOp_eight _ hop⟩
  · rw [decode_of_fieldOp_nine _ hop]
    exact (decodeCondJump_cases w).symm.imp id fun ⟨htype, h⟩ => ⟨_, h, .condJump hop htype⟩
  · exact .inl ⟨_, decode_of_fieldOp_ten _ hop⟩
  · exact .inl ⟨_, decode_of_fieldOp_fifteen _ hop⟩
  · rw [← hop] at h1 h2
    exact .inr ⟨_, decode_of_fieldOp_illegal _ h1 h2, .illegal h1 h2⟩

/-- Settles O5. -/
theorem reservedOpcodesIllegal : Obligations.ReservedOpcodesIllegal := by
  unfold Obligations.ReservedOpcodesIllegal
  exact fun m w => decode_of_fieldOp_illegal m

theorem decodeLogic2Literal_reserved {w : Word} (h26 : bitOf w 26 = false) (h25 : bitOf w 25 = true) :
    decodeLogic2Literal w = .error (.reservedEncoding w) := by
  simp [decodeLogic2Literal, h26, h25]

theorem decodeMemory_reserved {w : Word} (h27 : bitOf w 27 = true) (h26 : bitOf w 26 = false) :
    decodeMemory w = .error (.reservedEncoding w) := by
  simp [decodeMemory, h27, h26]

theorem decodeCondJump_iccBit {w : Word} (h : 32 ≤ (fieldR2 w).toNat) :
    decodeCondJump w = .error (.iccBit (fieldR2 w)) := by
  simp [decodeCondJump, iccBitOk, h]

/-- Settles O6: the reasons to refuse a word are the clauses of R70. -/
theorem reservedEncodings : Obligations.ReservedEncodings := by
  unfold Obligations.ReservedEncodings
  intro w
  refine ⟨fun hop hw => ?_, fun hop hf => ?_, fun hop hf => ?_, fun hop ht => ?_,
    fun hop hnop hlogic2 hmemory hcond => ?_⟩
  · rw [decode_of_fieldOp_zero _ (BitVec.eq_of_toNat_eq hop), if_neg hw]
  · obtain ⟨h26, h25⟩ := (field_two_eq_iff (b1 := false) (b0 := true)).1 hf
    rw [decode_of_fieldOp_three _ (BitVec.eq_of_toNat_eq hop), decodeLogic2,
      decodeLogic2Literal_reserved h26 h25]
  · obtain ⟨h27, h26⟩ := (field_two_eq_iff (b1 := true) (b0 := false)).1 hf
    rw [decode_of_fieldOp_six _ (BitVec.eq_of_toNat_eq hop), decodeMemory_reserved h27 h26]
  · rw [decode_of_fieldOp_nine _ (BitVec.eq_of_toNat_eq hop), decodeCondJump_iccBit ht]
  · obtain h | ⟨r, -, hr⟩ := decode_literal_cases w
    · exact h
    · exfalso
      cases hr with
      | illegal h1 h2 => omega
      | nop hop0 hw => exact hw (hnop (by rw [hop0]; rfl))
      | logic2 hop3 h26 h25 => exact hlogic2 (by rw [hop3]; rfl) (field_two_eq_iff.2 ⟨h26, h25⟩)
      | memory hop6 h27 h26 => exact hmemory (by rw [hop6]; rfl) (field_two_eq_iff.2 ⟨h27, h26⟩)
      | condJump hop9 htype => exact absurd (hcond (by rw [hop9]; rfl)) (by omega)

/-! ### The rows of the opcode table (R72) -/

/-- The bits that the row of a form fixes. -/
def Instr.rowMask : Instr → Word
  | .nop => 0xFFFFFFFF
  | .sub .. | .subcc .. | .add .. | .addcc .. | .subi .. | .subcci .. | .addi .. | .addcci .. => 0xFE000000
  | .or .. | .and .. | .xor .. | .not .. | .ori .. | .andi .. | .xori .. | .noti .. => 0xFE000000
  | .nor .. | .nand .. | .lz .. | .pop .. | .nori .. | .nandi .. | .lzi .. | .popi .. => 0xFE000000
  | .shl .. | .shr .. | .shlx .. | .shrx .. | .shli .. | .shri .. | .shlxi .. | .shrxi .. => 0xFE000000
  | .rol .. | .ror .. | .roli .. | .rori .. => 0xFA000000
  | .ld .. | .st .. | .sti .. => 0xFC000000
  | .wdec .. | .winc .. => 0xF8000000
  | .jl .. | .jlr .. | .jli .. | .jlri .. => 0xFC000000
  | .jc .. | .jcA .. | .jcr .. | .jcrA .. | .jci .. | .jciA .. | .jcri .. | .jcriA .. => 0xFE000000
  | .li .. | .halt => 0xF0000000

/-- The row of a form: its mnemonic, and what its words have in the bits that the row fixes. -/
def Instr.row (i : Instr) : OpcodeRow := ⟨i.mnemonic, encode .literal i &&& i.rowMask, i.rowMask⟩

theorem usedMask_and_rowMask (i : Instr) : usedMask i &&& i.rowMask = i.rowMask := by
  have hthree : (0xFE03FFFF : Word) &&& 0xFE000000 = 0xFE000000 := by decide
  have hrotate : (0xFA03FFFF : Word) &&& 0xFA000000 = 0xFA000000 := by decide
  have hmemory : (0xFC000FFF : Word) &&& 0xFC000000 = 0xFC000000 := by decide
  have hfull (mask : Word) : (0xFFFFFFFF : Word) &&& mask = mask := BitVec.allOnes_and
  cases i with
  | nop => exact hfull _
  | sub | subcc | add | addcc | or | and | xor | not | nor | nand | lz | pop | shl | shr | shlx | shrx | jc
  | jcA | jcr | jcrA => exact hthree
  | subi | subcci | addi | addcci | ori | andi | xori | noti | nori | nandi | lzi | popi | shli | shri | shlxi
  | shrxi | jci | jciA | jcri | jcriA | sti | jli | jlri | li => exact hfull _
  | rol | ror => exact hrotate
  | roli | rori => exact (by decide : (0xFBFFFFFF : Word) &&& 0xFA000000 = 0xFA000000)
  | ld | st | jl | jlr => exact hmemory
  | wdec | winc => exact (by decide : (0xF8000FFF : Word) &&& 0xF8000000 = 0xF8000000)
  | halt => exact BitVec.and_self

/-! The bits above the operands do not depend on the operands. -/

section Heads

variable (op : BitVec 4) (m m1 m0 : Bool) (rd r1 r2 : RegAddr) (i13 : BitVec 13) (i20 : BitVec 20)
  (i22 : BitVec 22) {mask : Word}

/-- Words that agree from bit `k` on agree under a mask that selects no lower bit. -/
theorem and_congr_of_high {u v : Word} (k : Nat) (hm : ∀ i, i < k → mask.getLsbD i = false)
    (h : ∀ i, k ≤ i → u.getLsbD i = v.getLsbD i) : u &&& mask = v &&& mask := by
  refine BitVec.eq_of_getLsbD_eq fun i _ => ?_
  rw [BitVec.getLsbD_and, BitVec.getLsbD_and]
  rcases Nat.lt_or_ge i k with hlow | hhigh
  · rw [hm i hlow, Bool.and_false, Bool.and_false]
  · rw [h i hhigh]

theorem packRRR_head (hm : ∀ i, i < 18 → mask.getLsbD i = false) :
    packRRR op m1 m0 rd r1 r2 &&& mask = packRRR op m1 m0 0 0 0 &&& mask := by
  refine and_congr_of_high 18 hm fun i hi => ?_
  simp only [packRRR, BitVec.getLsbD_append, show ¬ i < 6 by omega, show ¬ i - 6 < 6 by omega,
    show ¬ i - 6 - 6 < 6 by omega, if_false]

theorem packI13_head (hm : ∀ i, i < 25 → mask.getLsbD i = false) :
    packI13 op m1 m0 rd i13 r2 &&& mask = packI13 op m1 m0 0 0 0 &&& mask := by
  refine and_congr_of_high 25 hm fun i hi => ?_
  simp only [packI13, BitVec.getLsbD_append, show ¬ i < 6 by omega, show ¬ i - 6 < 6 by omega,
    show ¬ i - 6 - 6 < 13 by omega, if_false]

theorem packM2_head (hm : ∀ i, i < 12 → mask.getLsbD i = false) :
    packM2 op m r1 r2 &&& mask = packM2 op m 0 0 &&& mask := by
  refine and_congr_of_high 12 hm fun i hi => ?_
  simp only [packM2, BitVec.getLsbD_append, show ¬ i < 6 by omega, show ¬ i - 6 < 6 by omega, if_false]

theorem packI20_head (hm : ∀ i, i < 26 → mask.getLsbD i = false) :
    packI20 op m i20 rd &&& mask = packI20 op m 0 0 &&& mask := by
  refine and_congr_of_high 26 hm fun i hi => ?_
  simp only [packI20, BitVec.getLsbD_append, show ¬ i < 6 by omega, show ¬ i - 6 < 20 by omega, if_false]

theorem packW_head (hm : ∀ i, i < 12 → mask.getLsbD i = false) :
    packW m r1 r2 &&& mask = packW m 0 0 &&& mask := by
  refine and_congr_of_high 12 hm fun i hi => ?_
  simp only [packW, BitVec.getLsbD_append, show ¬ i < 6 by omega, show ¬ i - 6 < 6 by omega, if_false]

theorem packLI_head (hm : ∀ i, i < 28 → mask.getLsbD i = false) :
    packLI i22 rd &&& mask = packLI 0 0 &&& mask := by
  refine and_congr_of_high 28 hm fun i hi => ?_
  simp only [packLI, BitVec.getLsbD_append, show ¬ i < 6 by omega, show ¬ i - 6 < 22 by omega, if_false]

end Heads

/-- A row is in the table when the row of its value there has its mask and its mnemonic. -/
theorem row_mem_of_value {n : String} {v u mask : Word} (h : v = u)
    (hrow : ∃ p ∈ opcodeTable, p.value = u ∧ p.mask = mask ∧ p.mnemonic = n) :
    (⟨n, v, mask⟩ : OpcodeRow) ∈ opcodeTable := by
  obtain ⟨p, hp, rfl, rfl, rfl⟩ := hrow
  subst h
  exact hp

/-- Every form that `literal` decodes has its row in the opcode table. -/
theorem row_mem_opcodeTable {i : Instr} (hi : wellFormed .literal i = true) : i.row ∈ opcodeTable := by
  have hthree : ∀ i, i < 25 → (0xFE000000 : Word).getLsbD i = false := by decide
  have hrotate : ∀ i, i < 25 → (0xFA000000 : Word).getLsbD i = false := by decide
  have hmemory : ∀ i, i < 26 → (0xFC000000 : Word).getLsbD i = false := by decide
  cases i with
  | nop | halt => decide
  | pop | popi => cases hi
  | sub | subcc | add | addcc | or | and | xor | not | nor | nand | lz | shl | shr | shlx | shrx | jc | jcA
  | jcr | jcrA =>
    show (⟨_, packRRR _ _ _ _ _ _ &&& 0xFE000000, 0xFE000000⟩ : OpcodeRow) ∈ opcodeTable
    refine row_mem_of_value (packRRR_head _ _ _ _ _ _ (fun _ h => hthree _ (Nat.lt_trans h (by decide)))) ?_
    conv in Instr.mnemonic _ => whnf
    decide +kernel
  | rol | ror =>
    show (⟨_, packRRR _ _ _ _ _ _ &&& 0xFA000000, 0xFA000000⟩ : OpcodeRow) ∈ opcodeTable
    refine row_mem_of_value (packRRR_head _ _ _ _ _ _ (fun _ h => hrotate _ (Nat.lt_trans h (by decide)))) ?_
    conv in Instr.mnemonic _ => whnf
    decide +kernel
  | subi | subcci | addi | addcci | ori | andi | xori | noti | nori | nandi | lzi | shli | shri | shlxi | shrxi
  | jci | jciA | jcri | jcriA =>
    show (⟨_, packI13 _ _ _ _ _ _ &&& 0xFE000000, 0xFE000000⟩ : OpcodeRow) ∈ opcodeTable
    refine row_mem_of_value (packI13_head _ _ _ _ _ _ hthree) ?_
    conv in Instr.mnemonic _ => whnf
    decide +kernel
  | roli | rori =>
    show (⟨_, packI13 _ _ _ _ _ _ &&& 0xFA000000, 0xFA000000⟩ : OpcodeRow) ∈ opcodeTable
    refine row_mem_of_value (packI13_head _ _ _ _ _ _ hrotate) ?_
    conv in Instr.mnemonic _ => whnf
    decide +kernel
  | ld | st | jl | jlr =>
    show (⟨_, packM2 _ _ _ _ &&& 0xFC000000, 0xFC000000⟩ : OpcodeRow) ∈ opcodeTable
    refine row_mem_of_value (packM2_head _ _ _ _ (fun _ h => hmemory _ (Nat.lt_trans h (by decide)))) ?_
    conv in Instr.mnemonic _ => whnf
    decide +kernel
  | sti | jli | jlri =>
    show (⟨_, packI20 _ _ _ _ &&& 0xFC000000, 0xFC000000⟩ : OpcodeRow) ∈ opcodeTable
    refine row_mem_of_value (packI20_head _ _ _ _ hmemory) ?_
    conv in Instr.mnemonic _ => whnf
    decide +kernel
  | wdec | winc =>
    show (⟨_, packW _ _ _ &&& 0xF8000000, 0xF8000000⟩ : OpcodeRow) ∈ opcodeTable
    refine row_mem_of_value (packW_head _ _ _ (by decide)) ?_
    conv in Instr.mnemonic _ => whnf
    decide +kernel
  | li =>
    show (⟨_, packLI _ _ &&& 0xF0000000, 0xF0000000⟩ : OpcodeRow) ∈ opcodeTable
    refine row_mem_of_value (packLI_head _ _ (by decide)) ?_
    conv in Instr.mnemonic _ => whnf
    decide +kernel

/-- A word that decodes matches the row of its form. -/
theorem matches_row_of_decode {w : Word} {i : Instr} (h : decode .literal w = .ok i) :
    i.row ∈ opcodeTable ∧ w &&& i.rowMask = i.row.value := by
  obtain ⟨hi, henc⟩ := encodedBy_of_decode h
  refine ⟨row_mem_opcodeTable hi, ?_⟩
  rw [Instr.row, henc, BitVec.and_assoc, usedMask_and_rowMask]

/-- The bits that every row of an opcode fixes. -/
def opcodeMask (op : BitVec 4) : Word :=
  match op.toNat with
  | 0x0 => 0xFFFFFFFF
  | 0x1 | 0x2 | 0x3 | 0x4 | 0x9 => 0xFE000000
  | 0x5 => 0xFA000000
  | 0x6 | 0x8 => 0xFC000000
  | 0x7 => 0xF8000000
  | _ => 0xF0000000

theorem opcodeMask_opcode : ∀ (op : BitVec 4) (i : Nat), i < 4 → (opcodeMask op).getLsbD (28 + i) = true := by
  decide

theorem mask_eq_opcodeMask : ∀ p ∈ opcodeTable, p.mask = opcodeMask (fieldOp p.value) := by
  decide +kernel

/-- The table is in the order of its values. -/
theorem opcodeTable_sorted : opcodeTable.IsChain fun p q => p.value.toNat < q.value.toNat := by
  decide +kernel

theorem row_eq_of_value {p q : OpcodeRow} (hp : p ∈ opcodeTable) (hq : q ∈ opcodeTable)
    (h : p.value = q.value) : p = q := by
  have htrans : IsTrans OpcodeRow fun p q => p.value.toNat < q.value.toNat := ⟨fun _ _ _ => Nat.lt_trans⟩
  have hsymm : Std.Symm fun p q : OpcodeRow => p.value ≠ q.value := ⟨fun _ _ => Ne.symm⟩
  have hdiff : opcodeTable.Pairwise fun p q => p.value ≠ q.value :=
    opcodeTable_sorted.pairwise.imp fun hlt heq => by rw [heq] at hlt; exact Nat.lt_irrefl _ hlt
  by_contra hne
  exact hdiff.forall hp hq hne h

/-- A word has the opcode of a row that it matches. -/
theorem fieldOp_of_row {w : Word} {p : OpcodeRow} (hp : p ∈ opcodeTable) (hw : w &&& p.mask = p.value) :
    fieldOp w = fieldOp p.value :=
  fieldOp_of_match hw (by rw [mask_eq_opcodeMask p hp]; exact opcodeMask_opcode _)

/-- At most one row matches a word: its opcode decides the bits that the row fixes, and these the value. -/
theorem row_unique {w : Word} {p q : OpcodeRow} (hp : p ∈ opcodeTable) (hq : q ∈ opcodeTable)
    (hwp : w &&& p.mask = p.value) (hwq : w &&& q.mask = q.value) : p = q := by
  have hop : fieldOp p.value = fieldOp q.value := (fieldOp_of_row hp hwp).symm.trans (fieldOp_of_row hq hwq)
  have hmask : p.mask = q.mask := by rw [mask_eq_opcodeMask p hp, mask_eq_opcodeMask q hq, hop]
  exact row_eq_of_value hp hq (by rw [← hwp, ← hwq, hmask])

/-- No row has an illegal opcode, and the rows of opcodes 0, 3 and 6 are none of the reserved encodings (R70). -/
theorem opcodeTable_avoids_reserved : ∀ p ∈ opcodeTable,
    ¬ (0xB ≤ (fieldOp p.value).toNat ∧ (fieldOp p.value).toNat ≤ 0xE) ∧
    (fieldOp p.value = 0x0#4 → p.value = 0) ∧
    (fieldOp p.value = 0x3#4 → ¬ (p.value.getLsbD 26 = false ∧ p.value.getLsbD 25 = true)) ∧
    (fieldOp p.value = 0x6#4 → ¬ (p.value.getLsbD 27 = true ∧ p.value.getLsbD 26 = false)) := by
  decide +kernel

/-- A word that matches a row is refused only for its `type`. -/
theorem refused_of_row {w : Word} {p : OpcodeRow} (hp : p ∈ opcodeTable) (hw : w &&& p.mask = p.value)
    {r : DecodeReject} (hr : Refused w r) :
    fieldOp w = 0x9#4 ∧ 32 ≤ (fieldR2 w).toNat ∧ r = .iccBit (fieldR2 w) := by
  obtain ⟨hillegal, hnop, hlogic2, hmemory⟩ := opcodeTable_avoids_reserved p hp
  have hmask := mask_eq_opcodeMask p hp
  rw [← fieldOp_of_row hp hw] at hillegal hnop hlogic2 hmemory hmask
  cases hr with
  | illegal h1 h2 => exact absurd ⟨h1, h2⟩ hillegal
  | nop h0 hne =>
    rw [hmask, hnop h0, h0] at hw
    exact absurd (eq_of_and_full (hw.trans (by decide))) hne
  | logic2 h3 h26 h25 =>
    rw [h3] at hmask
    rw [bitOf_of_match hw (by rw [hmask]; rfl)] at h26 h25
    exact absurd ⟨h26, h25⟩ (hlogic2 h3)
  | memory h6 h27 h26 =>
    rw [h6] at hmask
    rw [bitOf_of_match hw (by rw [hmask]; rfl)] at h27 h26
    exact absurd ⟨h27, h26⟩ (hmemory h6)
  | condJump h9 htype => exact ⟨h9, htype, rfl⟩

/-- Every word of opcode 9 matches a row: that of the word without its operands, which decodes. -/
theorem row_of_fieldOp_nine {w : Word} (hop : fieldOp w = 0x9#4) :
    ∃ p ∈ opcodeTable, w &&& p.mask = p.value := by
  obtain ⟨u, hu⟩ : ∃ u, u = w &&& 0xFE000000 := ⟨_, rfl⟩
  have hagree : u &&& 0xFE000000 = w &&& 0xFE000000 := by rw [hu, BitVec.and_assoc, BitVec.and_self]
  have hopu : fieldOp u = 0x9#4 := (field_congr hagree (by decide)).trans hop
  have htype : u &&& 0xFC0 = 0 &&& 0xFC0 := by
    rw [hu, BitVec.and_assoc]
    exact BitVec.and_zero
  have hzero : fieldR2 u = 0 := field_congr htype (by decide)
  obtain ⟨hbad, -⟩ | ⟨i, hi⟩ := decodeCondJump_cases u
  · rw [hzero] at hbad
    exact absurd hbad (by decide)
  · obtain ⟨hrow, hmatch⟩ := matches_row_of_decode ((decode_of_fieldOp_nine .literal hopu).trans hi)
    have hmask : i.rowMask = 0xFE000000 := by
      have hm := mask_eq_opcodeMask i.row hrow
      rwa [← fieldOp_of_row hrow hmatch, hopu] at hm
    refine ⟨i.row, hrow, ?_⟩
    rw [hmask, hagree] at hmatch
    rwa [← hmask] at hmatch

/-- A word that matches no row is illegal or reserved. -/
theorem refused_of_no_row {w : Word} (h : ∀ p ∈ opcodeTable, w &&& p.mask ≠ p.value) {r : DecodeReject}
    (hr : Refused w r) : r = .illegalInstruction w ∨ r = .reservedEncoding w := by
  cases hr with
  | illegal => exact .inl rfl
  | nop | logic2 | memory => exact .inr rfl
  | condJump hop =>
    obtain ⟨p, hp, hw⟩ := row_of_fieldOp_nine hop
    exact absurd hw (h p hp)

/-- Settles O4: a word that decodes matches its form's row, rows exclude each other, and the reasons to refuse a
word are those of no row but for the `type`. -/
theorem decodeFollowsOpcodeTable : Obligations.DecodeFollowsOpcodeTable := by
  unfold Obligations.DecodeFollowsOpcodeTable
  refine ⟨fun w p q => row_unique, fun w i h => ?_, fun w p hp hw => ?_, fun w hw => ?_⟩
  · obtain ⟨hrow, hmatch⟩ := matches_row_of_decode h
    exact ⟨i.row, hrow, rfl, hmatch⟩
  · obtain ⟨i, hi⟩ | ⟨r, hd, hr⟩ := decode_literal_cases w
    · obtain ⟨hrow, hmatch⟩ := matches_row_of_decode hi
      exact .inl ⟨i, hi, congrArg OpcodeRow.mnemonic (row_unique hrow hp hmatch hw)⟩
    · obtain ⟨hop, htype, rfl⟩ := refused_of_row hp hw hr
      exact .inr ⟨hop, htype, hd⟩
  · obtain ⟨i, hi⟩ | ⟨r, hd, hr⟩ := decode_literal_cases w
    · obtain ⟨hrow, hmatch⟩ := matches_row_of_decode hi
      exact absurd hmatch (hw _ hrow)
    · obtain rfl | rfl := refused_of_no_row hw hr
      · exact .inl hd
      · exact .inr hd

/-! ### Opcode 3 under each map, and the words that the spec writes out -/

/-- What the register version of opcode 3 decodes to under each map, by the bits of T (R88, R89, R92). -/
theorem decode_packRRR_three (m : Logic2Map) (m1 m0 : Bool) (rd r1 r2 : RegAddr) :
    decode m (packRRR 0x3 m1 m0 rd r1 r2) = decodeLogic2 m (packRRR 0x3 m1 m0 rd r1 r2) :=
  decode_of_fieldOp_three m (packRRR_op ..)

/-- Settles O7. -/
theorem logic2MapSelects : Obligations.Logic2MapSelects := by
  unfold Obligations.Logic2MapSelects
  intro rd r1 r2
  simp only [decode_packRRR_three, decodeLogic2, decodeLogic2Literal, decodeLogic2Shifted,
    decodeLogic2Strict, packRRR_bit27, packRRR_bit26, packRRR_bit25, packRRR_rd, packRRR_r1, packRRR_r2,
    and_self]

/-- Settles O8, by running the decoder on each word. -/
theorem specWordsDecode : Obligations.SpecWordsDecode := by
  unfold Obligations.SpecWordsDecode
  decide

end Sys2Proof

/-! What each form writes, and that it changes nothing else. -/

namespace Sys2Proof.Machine

/-! ### General registers, when the banks are the same -/

/-- `t` has the parameters and the register banks of `s`. -/
structure SameBanks (s t : State) : Prop where
  cfg : t.cfg = s.cfg
  globals : t.globals = s.globals
  inputs : t.inputs = s.inputs
  locals : t.locals = s.locals
  outputs : t.outputs = s.outputs

/-- A general address names a register of one of the four banks (R13, R15). -/
theorem locate_general (c : Config) (w : Nat) {a : RegAddr} (ha : isGeneral a) :
    (∃ k, locate c w a = .global k) ∨ (∃ w' k, locate c w a = .input w' k) ∨
      (∃ w' k, locate c w a = .localReg w' k) ∨ (∃ w' k, locate c w a = .output w' k) := by
  have hlt : a.toNat < 0x28 := ha
  simp only [locate, locateInput, hlt, if_true]
  cases c.windowOverlap <;> dsimp only <;> repeat' split
  all_goals simp

theorem regIn_of_sameBanks {s t : State} (h : SameBanks s t) (w : Nat) {a : RegAddr} (ha : isGeneral a) :
    t.regIn w a = s.regIn w a := by
  rw [State.regIn, State.regIn, h.cfg]
  obtain ⟨k, hl⟩ | ⟨w', k, hl⟩ | ⟨w', k, hl⟩ | ⟨w', k, hl⟩ := locate_general s.cfg w ha <;>
    simp only [hl, State.readLoc, h.globals, h.inputs, h.locals, h.outputs]

theorem regsKept_of_sameBanks {s t : State} (h : SameBanks s t) (dests : List Loc) : regsKept s t dests :=
  fun w _ _ ha _ => regIn_of_sameBanks h w ha

/-- A write to `rd` followed by changes outside the banks writes `rd` only. -/
theorem regWritten_of_sameBanks {s t : State} (h : s.wf = true) {rd : RegAddr} (hd : writable rd = true)
    {v : Word} (hb : SameBanks (s.setReg rd v) t) (hcwp : t.cwp = s.cwp) : regWritten s t rd v := by
  constructor
  · intro hgen
    calc t.reg rd = t.regIn s.cwp rd := by rw [State.reg, State.regIn, hcwp]
      _ = (s.setReg rd v).regIn s.cwp rd := regIn_of_sameBanks hb _ hgen
      _ = (s.setReg rd v).reg rd := by rw [State.reg, State.regIn, setReg_cwp]
      _ = v := reg_setReg_same h hgen v
  · intro w a hw ha hne
    rw [regIn_of_sameBanks hb w ha, regIn_setReg_other h hd hw ha (List.ne_of_not_mem_cons hne)]

theorem writesReg_of_exec_icc {i : Instr} {s : State} (h : s.wf = true) {rd : RegAddr}
    (hd : writable rd = true) {v icc : Word}
    (he : exec i s = .next ((s.setReg rd v).setIcc icc).advance) : writesReg i s rd v icc :=
  ⟨_, he, regWritten_of_sameBanks h hd ⟨rfl, rfl, rfl, rfl, rfl⟩ (by simp), by simp, fun x => by simp,
    by simp [controlKept], by simp [sequential]⟩

theorem jumpsTo_of_exec {i : Instr} {s : State} (h : s.wf = true) {rd : RegAddr}
    (hd : writable rd = true) {target : Word} {an : Bool}
    (he : exec i s = .next ((s.setReg rd (s.npc + 4)).jump target an)) : jumpsTo i s rd target an :=
  ⟨_, he, regWritten_of_sameBanks h hd ⟨rfl, rfl, rfl, rfl, rfl⟩ (by simp), by simp, fun x => by simp,
    by simp, by simp, by simp, by simp, by simp, by simp, by simp⟩

/-! ### The three-operand forms (R77, R90, R107) -/

section ThreeOperand

variable {i : Instr} {s : State} {rd r2 : RegAddr} {x : Source}

/-- A form that computes a word writes it to `rd` and changes nothing else. -/
theorem writesReg_of_arith {f : UnarySrc → Word → Word → Word} (hm : meaning i = .arith f rd x r2)
    (h : s.wf = true) (hx : sourceReadable x = true) (h2 : readable r2 = true) (hd : writable rd = true)
    {v : Word} (hv : f s.cfg.unarySrc (s.source x) (s.reg r2) = v := by rfl) :
    writesReg i s rd v s.icc := by
  subst hv
  exact writesReg_of_exec h hd (by rw [exec_eq_run, hm]; exact compute_ok hx h2 hd s)

/-- A form with C = 1 writes its result to `rd`, replaces `$icc` and changes nothing else. -/
theorem writesReg_of_arithCc {f : Word → Word → Word} {icc : Config → Word → Word → Word}
    (hm : meaning i = .arithCc f icc rd x r2) (h : s.wf = true) (hx : sourceReadable x = true)
    (h2 : readable r2 = true) (hd : writable rd = true) {v u : Word}
    (hv : f (s.source x) (s.reg r2) = v := by rfl)
    (hu : icc s.cfg (s.source x) (s.reg r2) = u := by rfl) : writesReg i s rd v u := by
  subst hv hu
  exact writesReg_of_exec_icc h hd (by rw [exec_eq_run, hm]; exact threeOperand_ok hx h2 hd s _)

end ThreeOperand

/-! ### Add/Subtract (R77 to R87) -/

/-- Settles O31. -/
theorem addSubtractWithoutFlags : Obligations.AddSubtractWithoutFlags := by
  unfold Obligations.AddSubtractWithoutFlags
  exact ⟨fun s rd r1 r2 h h1 h2 hd => ⟨writesReg_sub h h1 h2 hd,
      writesReg_of_arith (x := .reg r1) rfl h h1 h2 hd⟩,
    fun s rd imm r2 h h2 hd => ⟨writesReg_of_arith rfl h rfl h2 hd,
      writesReg_of_arith rfl h rfl h2 hd⟩⟩

/-- Bit 32 of the sum of two words as 33-bit words says that it does not fit 32 bits (R79). -/
theorem addCarry_eq (a b : Word) : addCarry a b = decide (2 ^ 32 ≤ a.toNat + b.toNat) := by
  have ha := a.isLt
  have hb := b.isLt
  have hsum : (a.zeroExtend 33 + b.zeroExtend 33).toNat = a.toNat + b.toNat := by
    simp only [BitVec.toNat_add, BitVec.truncate_eq_setWidth, BitVec.toNat_setWidth]
    omega
  rw [addCarry, BitVec.getLsbD, hsum, Nat.testBit_eq_decide_div_mod_eq]
  congr 1
  simp only [eq_iff_iff]
  omega

theorem addOverflow_eq (a b : Word) :
    addOverflow a b = decide (a.msb = b.msb ∧ (a + b).msb ≠ a.msb) := by
  rw [addOverflow]
  cases a.msb <;> cases b.msb <;> cases (a + b).msb <;> decide

theorem subOverflow_eq (a b : Word) :
    subOverflow a b = decide (a.msb ≠ b.msb ∧ (a - b).msb ≠ a.msb) := by
  rw [subOverflow]
  cases a.msb <;> cases b.msb <;> cases (a - b).msb <;> decide

theorem subCarry_eq (c : SubCarry) (a b : Word) : subCarry c a b =
    if c = .borrow then decide (a.toNat < b.toNat) else !decide (a.toNat < b.toNat) := by
  cases c <;> rfl

/-- Settles O32. -/
theorem addSubtractWithFlags : Obligations.AddSubtractWithFlags := by
  unfold Obligations.AddSubtractWithFlags
  simp only [← addCarry_eq, ← addOverflow_eq, ← subOverflow_eq, ← subCarry_eq]
  exact ⟨fun s rd r1 r2 h h1 h2 hd => ⟨writesReg_of_arithCc (x := .reg r1) rfl h h1 h2 hd,
      writesReg_of_arithCc (x := .reg r1) rfl h h1 h2 hd⟩,
    fun s rd imm r2 h h2 hd => ⟨writesReg_of_arithCc rfl h rfl h2 hd,
      writesReg_of_arithCc rfl h rfl h2 hd⟩⟩

/-- Settles O33: the overflow bits of R79 are the library's signed overflow. -/
theorem flagsAreArithmetic : Obligations.FlagsAreArithmetic := by
  unfold Obligations.FlagsAreArithmetic
  intro a b
  refine ⟨?_, ?_, ?_, ?_, ?_⟩
  · have hlib : addOverflow a b = BitVec.saddOverflow a b := by
      rw [BitVec.saddOverflow_eq, addOverflow]
      cases a.msb <;> cases b.msb <;> cases (a + b).msb <;> decide
    rw [hlib, BitVec.saddOverflow]
    simp only [Bool.or_eq_true, decide_eq_true_eq]
    omega
  · have hlib : subOverflow a b = BitVec.ssubOverflow a b := by
      rw [BitVec.ssubOverflow_eq, subOverflow]
      cases a.msb <;> cases b.msb <;> cases (a - b).msb <;> decide
    rw [hlib, BitVec.ssubOverflow]
    simp only [Bool.or_eq_true, decide_eq_true_eq]
    omega
  · rw [addCarry_eq, decide_eq_true_eq]
  · simp only [subCarry, decide_eq_true_eq]
    omega
  · simp only [subCarry, Bool.not_eq_true', decide_eq_false_iff_not]
    omega

/-- Settles O34, bit by bit. -/
theorem standardIccLayout : Obligations.StandardIccLayout := by
  unfold Obligations.StandardIccLayout
  intro r c v
  simp only [iccLayout, iccStandard, BitVec.getLsbD_append]
  refine ⟨by simp, by simp, by simp, by simp, fun j hj => ?_⟩
  simp [show ¬ j < 1 by omega, show ¬ j - 1 < 1 by omega, show ¬ j - 1 - 1 < 1 by omega,
    show ¬ j - 1 - 1 - 1 < 1 by omega]

/-! ### Logic (R88 to R106) -/

/-- Settles O37. -/
theorem logicTwoOperandForms : Obligations.LogicTwoOperandForms := by
  unfold Obligations.LogicTwoOperandForms
  exact ⟨fun s rd r1 r2 h h1 h2 hd => ⟨writesReg_or h h1 h2 hd rfl, writesReg_and h h1 h2 hd rfl,
      writesReg_of_arith (x := .reg r1) rfl h h1 h2 hd, writesReg_of_arith (x := .reg r1) rfl h h1 h2 hd,
      writesReg_of_arith (x := .reg r1) rfl h h1 h2 hd⟩,
    fun s rd imm r2 h h2 hd => ⟨writesReg_of_arith rfl h rfl h2 hd,
      writesReg_of_arith rfl h rfl h2 hd, writesReg_of_arith rfl h rfl h2 hd,
      writesReg_of_arith rfl h rfl h2 hd, writesReg_of_arith rfl h rfl h2 hd⟩⟩

theorem unaryOperand_eq_ite (u : UnarySrc) (a b : Word) :
    unaryOperand u a b = if u = .in1 then a else b := by
  cases u <;> rfl

/-- Settles O38. -/
theorem logicOneOperandForms : Obligations.LogicOneOperandForms := by
  unfold Obligations.LogicOneOperandForms
  simp only [← unaryOperand_eq_ite]
  exact ⟨fun s rd r1 r2 h h1 h2 hd => ⟨writesReg_of_arith (x := .reg r1) rfl h h1 h2 hd,
      writesReg_of_arith (x := .reg r1) rfl h h1 h2 hd, writesReg_of_arith (x := .reg r1) rfl h h1 h2 hd⟩,
    fun s rd imm r2 h h2 hd => ⟨writesReg_of_arith rfl h rfl h2 hd,
      writesReg_of_arith rfl h rfl h2 hd,
      writesReg_of_arith rfl h rfl h2 hd⟩⟩

end Sys2Proof.Machine

/-! Shift and Rotate bit by bit, and the two counts of bits (R91, R107 to R121). -/

namespace Sys2Proof.Machine

/-! ### One step of a shift (R108) -/

section ShiftStep

variable (e : Bool) (v : Word) {j : Nat}

theorem getLsbD_shiftStep_left : (shiftStep e false v).getLsbD j =
    if j = 0 then e && v.getLsbD 0 else decide (j < 32) && v.getLsbD (j - 1) := by
  simp only [shiftStep, shiftFill, Bool.false_eq_true, if_false, BitVec.getLsbD_append,
    BitVec.getLsbD_extractLsb', BitVec.getLsbD_ofBool]
  by_cases hj : j = 0
  · simp [hj]
  · rw [if_neg (by omega), if_neg hj, Nat.zero_add]
    congr 1
    exact decide_eq_decide.2 (by omega)

theorem getLsbD_shiftStep_right (hj : j < 32) : (shiftStep e true v).getLsbD j =
    if j = 31 then e && v.getLsbD 31 else v.getLsbD (j + 1) := by
  simp only [shiftStep, shiftFill, if_true, BitVec.getLsbD_append, BitVec.getLsbD_extractLsb',
    BitVec.getLsbD_ofBool, BitVec.msb_eq_getLsbD_last]
  by_cases h31 : j = 31
  · simp [h31]
  · have hlt : j < 31 := by omega
    simp [h31, hlt, Nat.add_comm]

end ShiftStep

/-- Settles O42. -/
theorem shiftStepMovesBits : Obligations.ShiftStepMovesBits := by
  unfold Obligations.ShiftStepMovesBits
  intro v e
  refine ⟨fun j hj => ?_, ?_, fun j hj => ?_, ?_⟩
  · rw [getLsbD_shiftStep_left, if_neg (by omega), decide_eq_true (by omega), Bool.true_and,
      Nat.add_sub_cancel]
  · rw [getLsbD_shiftStep_left, if_pos rfl]
  · rw [getLsbD_shiftStep_right e v (by omega), if_neg (by omega)]
  · rw [getLsbD_shiftStep_right e v (by omega), if_pos rfl]

/-! ### Many steps: the closed form (R108) -/

section ShiftBits

variable (e : Bool) (v : Word) (n : Nat) {j : Nat}

theorem getLsbD_iterate_left (hj : j < 32) : ((shiftStep e false)^[n] v).getLsbD j =
    if n ≤ j then v.getLsbD (j - n) else e && v.getLsbD 0 := by
  induction n generalizing j with
  | zero => simp
  | succ n ih =>
    rw [Function.iterate_succ_apply', getLsbD_shiftStep_left]
    by_cases h0 : j = 0
    · subst h0
      rw [if_pos rfl, if_neg (by omega), ih (by omega)]
      by_cases hn : n = 0
      · subst hn; simp
      · rw [if_neg (by omega)]; simp
    · rw [if_neg h0, ih (by omega), decide_eq_true hj, Bool.true_and]
      by_cases hn : n + 1 ≤ j
      · rw [if_pos (by omega), if_pos hn]
        congr 1
        omega
      · rw [if_neg (by omega), if_neg hn]

theorem getLsbD_iterate_right (hj : j < 32) : ((shiftStep e true)^[n] v).getLsbD j =
    if j + n < 32 then v.getLsbD (j + n) else e && v.getLsbD 31 := by
  induction n generalizing j with
  | zero => simp [hj]
  | succ n ih =>
    rw [Function.iterate_succ_apply', getLsbD_shiftStep_right e _ hj]
    by_cases h31 : j = 31
    · subst h31
      rw [if_pos rfl, if_neg (by omega), ih (by omega)]
      by_cases hn : n = 0
      · subst hn; simp
      · rw [if_neg (by omega)]; simp
    · rw [if_neg h31, ih (by omega), show j + 1 + n = j + (n + 1) by omega]

/-- The bits that a left shift by `n` fills: those below `n`. -/
theorem getLsbD_fill_left (hj : j < 32) : (BitVec.ofNat 32 (2 ^ n - 1)).getLsbD j = decide (j < n) := by
  rw [BitVec.getLsbD_ofNat, Nat.testBit_two_pow_sub_one, decide_eq_true hj, Bool.true_and]

/-- The bits that a right shift by `n` fills: the `n` uppermost. -/
theorem getLsbD_fill_right (hn : n ≤ 32) (hj : j < 32) :
    (BitVec.ofNat 32 ((2 ^ n - 1) * 2 ^ (32 - n))).getLsbD j = decide (32 ≤ j + n) := by
  rw [BitVec.getLsbD_ofNat, Nat.testBit_mul_two_pow, Nat.testBit_two_pow_sub_one, decide_eq_true hj,
    Bool.true_and, ← Bool.decide_and]
  exact decide_eq_decide.2 (by omega)

theorem getLsbD_ones (hj : j < 32) : (0xFFFFFFFF : Word).getLsbD j = true :=
  (getLsbD_fill_left 32 hj).trans (decide_eq_true hj)

theorem getLsbD_ite_zero (f : Bool) (fill : Word) :
    (if f = true then fill else 0).getLsbD j = (f && fill.getLsbD j) := by
  cases f <;> simp

theorem getLsbD_shiftBits_left (hj : j < 32) : (shiftBits v n e false).getLsbD j =
    if n ≤ j then v.getLsbD (j - n) else e && v.getLsbD 0 := by
  simp only [shiftBits, shiftFill, Bool.false_eq_true, if_false]
  by_cases h0 : n = 0
  · simp [h0]
  by_cases h31 : n ≤ 31
  · rw [if_neg h0, if_pos h31, BitVec.getLsbD_or, BitVec.getLsbD_shiftLeft, getLsbD_ite_zero,
      getLsbD_fill_left n hj]
    by_cases hn : n ≤ j
    · simp [hn, hj, Nat.not_lt.2 hn]
    · simp [hn, Nat.lt_of_not_le hn]
  · rw [if_neg h0, if_neg h31, getLsbD_ite_zero, getLsbD_ones hj, Bool.and_true,
      if_neg (show ¬ n ≤ j by omega)]

theorem getLsbD_shiftBits_right (hj : j < 32) : (shiftBits v n e true).getLsbD j =
    if j + n < 32 then v.getLsbD (j + n) else e && v.getLsbD 31 := by
  simp only [shiftBits, shiftFill, if_true, BitVec.msb_eq_getLsbD_last]
  by_cases h0 : n = 0
  · simp [h0, hj]
  by_cases h31 : n ≤ 31
  · rw [if_neg h0, if_pos h31, BitVec.getLsbD_or, BitVec.getLsbD_ushiftRight, getLsbD_ite_zero,
      getLsbD_fill_right n (by omega) hj, Nat.add_comm n j]
    by_cases hn : j + n < 32
    · simp [hn]
    · simp [hn, Nat.le_of_not_lt hn]
  · rw [if_neg h0, if_neg h31, getLsbD_ite_zero, getLsbD_ones hj, Bool.and_true,
      if_neg (show ¬ j + n < 32 by omega)]

/-- The closed form of a shift is its one-place step, `n` times (R108). -/
theorem shiftBits_eq_iterate (right : Bool) : shiftBits v n e right = (shiftStep e right)^[n] v := by
  refine BitVec.eq_of_getLsbD_eq fun j hj => ?_
  cases right with
  | false => rw [getLsbD_shiftBits_left e v n hj, getLsbD_iterate_left e v n hj]
  | true => rw [getLsbD_shiftBits_right e v n hj, getLsbD_iterate_right e v n hj]

/-- The arithmetic right shift is the library's. -/
theorem shiftBits_eq_sshiftRight : shiftBits v n true true = v.sshiftRight n := by
  refine BitVec.eq_of_getLsbD_eq fun j hj => ?_
  rw [getLsbD_shiftBits_right true v n hj, BitVec.getLsbD_sshiftRight, BitVec.msb_eq_getLsbD_last,
    Nat.add_comm n j, decide_eq_false (by omega : ¬ 32 ≤ j), Bool.true_and, Bool.not_false, Bool.true_and]

end ShiftBits

/-- Settles O43. -/
theorem arithmeticRightShiftDivides : Obligations.ArithmeticRightShiftDivides := by
  unfold Obligations.ArithmeticRightShiftDivides
  intro v n _
  rw [shiftBits_eq_sshiftRight, BitVec.toInt_sshiftRight, Int.shiftRight_eq_div_pow]
  norm_cast

/-! ### The Shift forms (R107, R110 to R117) -/

section ShiftForms

variable {i : Instr} {s : State} {e right : Bool} {rd r2 : RegAddr} {x : Source}

/-- The count that a setting of `SHIFT_COUNT` which does not refuse it makes of a register value. -/
theorem shiftCount_ok {c : ShiftCount} {n : Word} (h : c = .refuse → n.toNat < 32) :
    shiftCount c n = some (if c = .mod32 then n.toNat % 32 else n.toNat) := by
  cases c <;> simp_all [shiftCount]

theorem shiftCount_refuse {n : Word} (h : 32 ≤ n.toNat) : shiftCount .refuse n = none := by
  simp [shiftCount, h]

theorem writesReg_of_shifting (hm : meaning i = .shifting e right rd x r2) (h : s.wf = true)
    (hx : sourceReadable x = true) (h2 : readable r2 = true) (hd : writable rd = true)
    (hc : s.cfg.shiftCount = .refuse → (s.reg r2).toNat < 32) {v : Word} (hv : s.source x = v := by rfl) :
    writesReg i s rd ((shiftStep e right)^[
      if s.cfg.shiftCount = .mod32 then (s.reg r2).toNat % 32 else (s.reg r2).toNat] v) s.icc := by
  subst hv
  rw [← shiftBits_eq_iterate]
  refine writesReg_of_exec h hd ?_
  rw [exec_eq_run, hm, Meaning.run, shift, threeOperand_ok hx h2 hd, shiftCount_ok hc]

theorem exec_shifting_fault (hm : meaning i = .shifting e right rd x r2) (hx : sourceReadable x = true)
    (h2 : readable r2 = true) (hd : writable rd = true) (hc : s.cfg.shiftCount = .refuse)
    (hn : 32 ≤ (s.reg r2).toNat) : exec i s = .fault (.shiftCountFault (s.reg r2)) := by
  rw [exec_eq_run, hm, Meaning.run, shift, threeOperand_ok hx h2 hd, hc, shiftCount_refuse hn]
  rfl

end ShiftForms

/-- Settles O41. -/
theorem shiftForms : Obligations.ShiftForms := by
  unfold Obligations.ShiftForms
  exact ⟨fun s rd r1 r2 h h1 h2 hd hc => ⟨writesReg_of_shifting (x := .reg r1) rfl h h1 h2 hd hc,
      writesReg_of_shifting (x := .reg r1) rfl h h1 h2 hd hc,
      writesReg_of_shifting (x := .reg r1) rfl h h1 h2 hd hc,
      writesReg_of_shifting (x := .reg r1) rfl h h1 h2 hd hc⟩,
    fun s rd imm r2 h h2 hd hc => ⟨writesReg_of_shifting rfl h rfl h2 hd hc,
      writesReg_of_shifting rfl h rfl h2 hd hc, writesReg_of_shifting rfl h rfl h2 hd hc,
      writesReg_of_shifting rfl h rfl h2 hd hc⟩⟩

/-- Settles O44. -/
theorem largeShiftCountRefused : Obligations.LargeShiftCountRefused := by
  unfold Obligations.LargeShiftCountRefused
  intro s rd r1 r2 imm hc h2 hd hn
  refine ⟨fun h1 => ?_, ?_⟩
  · simp only [List.forall_mem_cons, List.not_mem_nil, false_imp_iff, implies_true, and_true]
    exact ⟨exec_shifting_fault (x := .reg r1) rfl h1 h2 hd hc hn,
      exec_shifting_fault (x := .reg r1) rfl h1 h2 hd hc hn,
      exec_shifting_fault (x := .reg r1) rfl h1 h2 hd hc hn,
      exec_shifting_fault (x := .reg r1) rfl h1 h2 hd hc hn⟩
  · simp only [List.forall_mem_cons, List.not_mem_nil, false_imp_iff, implies_true, and_true]
    exact ⟨exec_shifting_fault rfl rfl h2 hd hc hn, exec_shifting_fault rfl rfl h2 hd hc hn,
      exec_shifting_fault rfl rfl h2 hd hc hn, exec_shifting_fault rfl rfl h2 hd hc hn⟩

/-! ### Rotate (R109, R118 to R121) -/

/-- Settles O45. -/
theorem rotateForms : Obligations.RotateForms := by
  unfold Obligations.RotateForms
  exact ⟨fun s rd r1 r2 h h1 h2 hd => ⟨writesReg_of_arith (x := .reg r1) rfl h h1 h2 hd,
      writesReg_of_arith (x := .reg r1) rfl h h1 h2 hd⟩,
    fun s rd imm r2 h h2 hd => ⟨writesReg_of_arith rfl h rfl h2 hd, writesReg_of_arith rfl h rfl h2 hd⟩⟩

/-- The rotation of R109 is the library's. -/
theorem rotl_eq_rotateLeft (v : Word) (n : Nat) : rotl v n = v.rotateLeft n := by
  rw [rotl, BitVec.rotateLeft_def]
  split
  · next h => rw [h]; simp [BitVec.ushiftRight_eq_zero]
  · rfl

theorem getLsbD_rotl (v : Word) (n : Nat) {j : Nat} (hj : j < 32) :
    (rotl v n).getLsbD ((j + n) % 32) = v.getLsbD j := by
  rw [rotl_eq_rotateLeft, BitVec.getLsbD_rotateLeft]
  by_cases h : (j + n) % 32 < n % 32
  · rw [decide_eq_true h, cond_true]
    congr 1
    omega
  · rw [decide_eq_false h, cond_false, decide_eq_true (Nat.mod_lt _ (by omega)), Bool.true_and]
    congr 1
    omega

theorem getLsbD_rotr (v : Word) (n : Nat) {j : Nat} (hj : j < 32) :
    (rotr v n).getLsbD j = v.getLsbD ((j + n) % 32) := by
  have hback : ((j + n) % 32 + (32 - n % 32)) % 32 = j := by omega
  rw [rotr, ← getLsbD_rotl v (32 - n % 32) (Nat.mod_lt (j + n) (by omega)), hback]

/-- Settles O46. -/
theorem rotateMovesBits : Obligations.RotateMovesBits := by
  unfold Obligations.RotateMovesBits
  exact fun v n j hj => ⟨getLsbD_rotl v n hj, getLsbD_rotr v n hj⟩

/-! ### Counts of bits (R91) -/

theorem leadingZeros_le (v : Word) (n : Nat) : leadingZeros v n ≤ n := by
  induction n with
  | zero => exact Nat.le_refl 0
  | succ n ih =>
    rw [leadingZeros]
    split <;> omega

theorem getLsbD_of_lt_leadingZeros (v : Word) {n j : Nat} (h : j < leadingZeros v n) :
    v.getLsbD (n - 1 - j) = false := by
  induction n generalizing j with
  | zero => exact absurd h (Nat.not_lt_zero j)
  | succ n ih =>
    rw [leadingZeros] at h
    split at h
    · omega
    · next hbit =>
      cases j with
      | zero => simpa using hbit
      | succ j => simpa [Nat.sub_sub, Nat.add_comm] using ih (Nat.lt_of_succ_lt_succ h)

theorem getLsbD_leadingZeros (v : Word) {n : Nat} (h : leadingZeros v n < n) :
    v.getLsbD (n - 1 - leadingZeros v n) = true := by
  induction n with
  | zero => exact absurd h (Nat.not_lt_zero _)
  | succ n ih =>
    rw [leadingZeros] at h ⊢
    split
    · next hbit => simpa using hbit
    · next hbit =>
      rw [if_neg hbit] at h
      simpa [Nat.sub_sub, Nat.add_comm] using ih (Nat.lt_of_succ_lt_succ h)

theorem toNat_clz (u : Word) : (clz u).toNat = leadingZeros u 32 := by
  have hle := leadingZeros_le u 32
  rw [clz, BitVec.toNat_ofNat, Nat.mod_eq_of_lt (by omega)]

/-- Settles O39. -/
theorem leadingZerosCounted : Obligations.LeadingZerosCounted := by
  unfold Obligations.LeadingZerosCounted
  intro u
  rw [toNat_clz]
  exact ⟨leadingZeros_le u 32, fun j hj => getLsbD_of_lt_leadingZeros u hj, getLsbD_leadingZeros u⟩

theorem onesBelow_eq_countP (v : Word) (n : Nat) :
    onesBelow v n = (List.range n).countP fun j => v.getLsbD j := by
  induction n with
  | zero => rfl
  | succ n ih =>
    rw [onesBelow, ih, List.range_succ, List.countP_append, List.countP_singleton, Nat.add_comm]

/-- Settles O40. -/
theorem onesCounted : Obligations.OnesCounted := by
  unfold Obligations.OnesCounted
  intro u
  have hle : (List.range 32).countP (fun j => u.getLsbD j) ≤ 32 := by
    simpa using List.countP_le_length (p := fun j => u.getLsbD j) (l := List.range 32)
  rw [popcount, BitVec.toNat_ofNat, onesBelow_eq_countP, Nat.mod_eq_of_lt (by omega)]

end Sys2Proof.Machine

/-! Jumps, memory and windows: what each form writes, and where it faults. -/

namespace Sys2Proof.Machine

/-! ### Load Immediate, No-op and Halt (R76, R145, R146) -/

/-- Settles O58. -/
theorem loadImmediateForm : Obligations.LoadImmediateForm := by
  unfold Obligations.LoadImmediateForm
  exact fun s rd imm h hd => writesReg_of_exec h hd (execLi_next.2 ⟨hd, rfl⟩)

/-- Settles O59. -/
theorem nopAndHaltForms : Obligations.NopAndHaltForms := by
  unfold Obligations.NopAndHaltForms
  exact fun s => ⟨rfl, rfl⟩

/-! ### Link Jump (R130 to R134) -/

section Link

variable {i : Instr} {s : State} {rel : Bool} {rd : RegAddr} {x : Source}

theorem jumpsTo_of_link (hm : meaning i = .link rel rd x) (h : s.wf = true)
    (hx : sourceReadable x = true) (hd : writable rd = true) {target : Word}
    (ht : jumpTarget rel s.npc (s.source x) = target := by rfl) : jumpsTo i s rd target false := by
  subst ht
  exact jumpsTo_of_exec h hd (by rw [exec_eq_run, hm]; exact linkJump_next.2 ⟨hx, hd, rfl⟩)

theorem exec_link_fault_source {r1 : RegAddr} (hm : meaning i = .link rel rd (.reg r1))
    (h1 : readable r1 = false) : exec i s = .fault (.registerFault r1) := by
  rw [exec_eq_run, hm, Meaning.run, linkJump, readSource, readReg_fault h1]

theorem exec_link_fault_dest (hm : meaning i = .link rel rd x) (hx : sourceReadable x = true)
    (hd : writable rd = false) : exec i s = .fault (.registerFault rd) := by
  rw [exec_eq_run, hm, Meaning.run, linkJump, readSource_ok hx, wcheck_fault hd]

end Link

/-- Settles O54. -/
theorem linkJumpForms : Obligations.LinkJumpForms := by
  unfold Obligations.LinkJumpForms
  exact ⟨fun s rd r1 h h1 hd => ⟨jumpsTo_of_link (x := .reg r1) rfl h h1 hd,
      jumpsTo_of_link (x := .reg r1) rfl h h1 hd⟩,
    fun s rd imm h hd => ⟨jumpsTo_of_link rfl h rfl hd, jumpsTo_of_link rfl h rfl hd⟩⟩

/-! ### Conditional Jump (R135 to R144) -/

theorem iccBitOk_iff {type : BitVec 6} : iccBitOk type = true ↔ type.toNat < 32 := decide_eq_true_iff

theorem jumpTaken_iff {s : State} {type : BitVec 6} :
    jumpTaken s type = true ↔ s.icc.getLsbD type.toNat = s.cfg.jumpSense := beq_iff_eq

/-- `i` falls through from `s`: a Conditional Jump that is not taken (R136). -/
def fallsThrough (i : Instr) (s : State) (rd : RegAddr) (an : Bool) : Prop :=
  ∃ t, exec i s = .next t ∧
    (s.cfg.linkNotTaken = .write → regWritten s t rd (s.npc + 4)) ∧
    (s.cfg.linkNotTaken = .skip → regsKept s t []) ∧
    t.icc = s.icc ∧ memKept s t ∧ t.cfg = s.cfg ∧ t.cwp = s.cwp ∧ t.psr = s.psr ∧
    t.halted = s.halted ∧ sequential s t ∧
    t.annul = (if an = true ∧ s.cfg.annulNotTaken = .annul then true else s.annul)

section Cond

variable {i : Instr} {s : State} {rel an : Bool} {rd : RegAddr} {type : BitVec 6} {x : Source}

theorem exec_cond (hm : meaning i = .cond rel an rd type x) (htype : type.toNat < 32)
    (hx : sourceReadable x = true) (hd : writable rd = true) :
    exec i s = .next (condFlow (jumpTaken s type) rel an (s.source x) (condLink (jumpTaken s type) rd s)) := by
  rw [exec_eq_run, hm]
  exact condJump_next.2 ⟨iccBitOk_iff.2 htype, hx, hd, rfl⟩

theorem jumpsTo_of_cond (hm : meaning i = .cond rel an rd type x) (h : s.wf = true)
    (htype : type.toNat < 32) (hx : sourceReadable x = true) (hd : writable rd = true)
    (htaken : s.icc.getLsbD type.toNat = s.cfg.jumpSense) {target : Word}
    (ht : jumpTarget rel s.npc (s.source x) = target := by rfl) : jumpsTo i s rd target an := by
  subst ht
  refine jumpsTo_of_exec h hd ?_
  rw [exec_cond hm htype hx hd, jumpTaken_iff.2 htaken, condFlow_taken, condLink_true, setReg_npc]

theorem condLink_write (h : s.cfg.linkNotTaken = .write) (b : Bool) :
    condLink b rd s = s.setReg rd (s.npc + 4) := by simp [condLink, h]

theorem condLink_skip (h : s.cfg.linkNotTaken = .skip) : condLink false rd s = s := by
  simp [condLink, h]

/-- Where a Conditional Jump that is not taken goes on changes neither banks nor flags (R136). -/
theorem condFlow_not_taken_keeps (v : Word) (u : State) :
    let t := condFlow false rel an v u
    SameBanks u t ∧ t.cwp = u.cwp ∧ t.icc = u.icc ∧ t.mem = u.mem ∧ t.psr = u.psr ∧ t.halted = u.halted ∧
      t.pc = u.npc ∧ t.npc = u.npc + 4 ∧
      t.annul = (if an = true ∧ u.cfg.annulNotTaken = .annul then true else u.annul) := by
  dsimp only
  rw [condFlow_not_taken]
  split
  · exact ⟨⟨rfl, rfl, rfl, rfl, rfl⟩, rfl, rfl, rfl, rfl, rfl, rfl, rfl, rfl⟩
  · exact ⟨⟨rfl, rfl, rfl, rfl, rfl⟩, rfl, rfl, rfl, rfl, rfl, rfl, rfl, rfl⟩

theorem fallsThrough_of_cond (hm : meaning i = .cond rel an rd type x) (h : s.wf = true)
    (htype : type.toNat < 32) (hx : sourceReadable x = true) (hd : writable rd = true)
    (hnot : s.icc.getLsbD type.toNat ≠ s.cfg.jumpSense) : fallsThrough i s rd an := by
  have hjump : jumpTaken s type = false := by simpa using mt jumpTaken_iff.1 hnot
  obtain ⟨hbanks, hcwp, hicc, hmem, hpsr, hhalted, hpc, hnpc, hannul⟩ :=
    condFlow_not_taken_keeps (rel := rel) (an := an) (s.source x) (condLink false rd s)
  refine ⟨_, by rw [exec_cond hm htype hx hd, hjump], fun hlink => ?_, fun hlink => ?_, by simp [hicc],
    fun a => by simp [hmem], by simp [hbanks.cfg], by simp [hcwp], by simp [hpsr], by simp [hhalted],
    by simp [sequential, hpc, hnpc], by simp [hannul]⟩
  · rw [condLink_write hlink] at hbanks ⊢
    exact regWritten_of_sameBanks h hd hbanks (by simpa [condLink_write hlink] using hcwp)
  · rw [condLink_skip hlink] at hbanks ⊢
    exact regsKept_of_sameBanks hbanks _

theorem exec_cond_fault_type (hm : meaning i = .cond rel an rd type x) (htype : 32 ≤ type.toNat) :
    exec i s = .fault (.iccBitFault type) := by
  have hok : ¬ iccBitOk type = true := mt iccBitOk_iff.1 (Nat.not_lt.2 htype)
  rw [exec_eq_run, hm, Meaning.run, condJump, if_neg hok]
  rfl

theorem exec_cond_fault_source {r1 : RegAddr} (hm : meaning i = .cond rel an rd type (.reg r1))
    (htype : type.toNat < 32) (h1 : readable r1 = false) : exec i s = .fault (.registerFault r1) := by
  rw [exec_eq_run, hm, Meaning.run, condJump, if_pos (iccBitOk_iff.2 htype), readSource, readReg_fault h1]

theorem exec_cond_fault_dest (hm : meaning i = .cond rel an rd type x) (htype : type.toNat < 32)
    (hx : sourceReadable x = true) (hd : writable rd = false) :
    exec i s = .fault (.registerFault rd) := by
  rw [exec_eq_run, hm, Meaning.run, condJump, if_pos (iccBitOk_iff.2 htype), readSource_ok hx,
    wcheck_fault hd]

end Cond

/-- Settles O55. -/
theorem conditionalJumpTaken : Obligations.ConditionalJumpTaken := by
  unfold Obligations.ConditionalJumpTaken
  exact ⟨fun s rd r1 type h htype h1 hd ht => ⟨jumpsTo_of_cond (x := .reg r1) rfl h htype h1 hd ht,
      jumpsTo_of_cond (x := .reg r1) rfl h htype h1 hd ht, jumpsTo_of_cond (x := .reg r1) rfl h htype h1 hd ht,
      jumpsTo_of_cond (x := .reg r1) rfl h htype h1 hd ht⟩,
    fun s rd type imm h htype hd ht => ⟨jumpsTo_of_cond rfl h htype rfl hd ht,
      jumpsTo_of_cond rfl h htype rfl hd ht, jumpsTo_of_cond rfl h htype rfl hd ht,
      jumpsTo_of_cond rfl h htype rfl hd ht⟩⟩

/-- Settles O56. -/
theorem conditionalJumpNotTaken : Obligations.ConditionalJumpNotTaken := by
  unfold Obligations.ConditionalJumpNotTaken
  exact ⟨fun s rd r1 type h htype h1 hd hn => ⟨fallsThrough_of_cond (x := .reg r1) rfl h htype h1 hd hn,
      fallsThrough_of_cond (x := .reg r1) rfl h htype h1 hd hn,
      fallsThrough_of_cond (x := .reg r1) rfl h htype h1 hd hn,
      fallsThrough_of_cond (x := .reg r1) rfl h htype h1 hd hn⟩,
    fun s rd type imm h htype hd hn => ⟨fallsThrough_of_cond rfl h htype rfl hd hn,
      fallsThrough_of_cond rfl h htype rfl hd hn, fallsThrough_of_cond rfl h htype rfl hd hn,
      fallsThrough_of_cond rfl h htype rfl hd hn⟩⟩

/-! ### The faults of the jumps, over lists of forms -/

section Lists

variable (rd r1 : RegAddr) (type : BitVec 6) (imm : BitVec 13) (imm20 : BitVec 20)

theorem meaning_of_linkReg : ∀ i ∈ [Instr.jl rd r1, .jlr rd r1],
    ∃ rel, meaning i = .link rel rd (.reg r1) :=
  List.forall_iff_forall_mem.1 ⟨⟨_, rfl⟩, ⟨_, rfl⟩⟩

theorem meaning_of_linkImm : ∀ i ∈ [Instr.jli rd imm20, .jlri rd imm20],
    ∃ rel, meaning i = .link rel rd (.imm20 imm20) :=
  List.forall_iff_forall_mem.1 ⟨⟨_, rfl⟩, ⟨_, rfl⟩⟩

theorem meaning_of_condReg : ∀ i ∈ [Instr.jc rd type r1, .jcA rd type r1, .jcr rd type r1, .jcrA rd type r1],
    ∃ rel an, meaning i = .cond rel an rd type (.reg r1) :=
  List.forall_iff_forall_mem.1 ⟨⟨_, _, rfl⟩, ⟨_, _, rfl⟩, ⟨_, _, rfl⟩, ⟨_, _, rfl⟩⟩

theorem meaning_of_condImm :
    ∀ i ∈ [Instr.jci rd type imm, .jciA rd type imm, .jcri rd type imm, .jcriA rd type imm],
      ∃ rel an, meaning i = .cond rel an rd type (.imm13 imm) :=
  List.forall_iff_forall_mem.1 ⟨⟨_, _, rfl⟩, ⟨_, _, rfl⟩, ⟨_, _, rfl⟩, ⟨_, _, rfl⟩⟩

end Lists

/-- Settles O57. -/
theorem jumpFaults : Obligations.JumpFaults := by
  unfold Obligations.JumpFaults
  intro s rd r1 type imm imm20
  refine ⟨fun htype i hi => ?_, fun h1 => ⟨fun i hi => ?_, fun htype i hi => ?_⟩,
    fun hd => ⟨fun i hi => ?_, fun htype i hi => ?_, fun h1 i hi => ?_, fun h1 htype i hi => ?_⟩⟩
  · rcases List.mem_append.1 hi with hi | hi
    · obtain ⟨rel, an, hm⟩ := meaning_of_condReg rd r1 type i hi
      exact exec_cond_fault_type hm htype
    · obtain ⟨rel, an, hm⟩ := meaning_of_condImm rd type imm i hi
      exact exec_cond_fault_type hm htype
  · obtain ⟨rel, hm⟩ := meaning_of_linkReg rd r1 i hi
    exact exec_link_fault_source hm h1
  · obtain ⟨rel, an, hm⟩ := meaning_of_condReg rd r1 type i hi
    exact exec_cond_fault_source hm htype h1
  · obtain ⟨rel, hm⟩ := meaning_of_linkImm rd imm20 i hi
    exact exec_link_fault_dest hm rfl hd
  · obtain ⟨rel, an, hm⟩ := meaning_of_condImm rd type imm i hi
    exact exec_cond_fault_dest hm htype rfl hd
  · obtain ⟨rel, hm⟩ := meaning_of_linkReg rd r1 i hi
    exact exec_link_fault_dest hm h1 hd
  · obtain ⟨rel, an, hm⟩ := meaning_of_condReg rd r1 type i hi
    exact exec_cond_fault_dest hm htype h1 hd

/-! ### Register faults of the other forms (R155, R161) -/

section RegisterFaults

variable {i : Instr} {x : Source} {rd r1 r2 : RegAddr} (s : State)

/-- The operands of the three-operand operations: the first source, the register `r2` and the destination. -/
def Meaning.operands : Meaning → Option (Source × RegAddr × RegAddr)
  | .arith _ rd x r2 | .arithCc _ _ rd x r2 | .shifting _ _ rd x r2 => some (x, r2, rd)
  | .noop | .load .. | .storing .. | .window .. | .link .. | .cond .. | .loadImm .. | .stop => none

theorem exec_eq_threeOperand (h : (meaning i).operands = some (x, r2, rd)) :
    ∃ k, exec i s = threeOperand x r2 rd s k := by
  rw [exec_eq_run]
  cases hm : meaning i <;> rw [hm] at h <;> cases h <;> exact ⟨_, rfl⟩

theorem exec_fault_first (h : (meaning i).operands = some (.reg r1, r2, rd)) (h1 : readable r1 = false) :
    exec i s = .fault (.registerFault r1) := by
  obtain ⟨k, hk⟩ := exec_eq_threeOperand s h
  rw [hk, threeOperand_fault_first h1]

theorem exec_fault_second (h : (meaning i).operands = some (x, r2, rd)) (hx : sourceReadable x = true)
    (h2 : readable r2 = false) : exec i s = .fault (.registerFault r2) := by
  obtain ⟨k, hk⟩ := exec_eq_threeOperand s h
  rw [hk, threeOperand_fault_second hx h2]

theorem exec_fault_dest (h : (meaning i).operands = some (x, r2, rd)) (hx : sourceReadable x = true)
    (h2 : readable r2 = true) (hd : writable rd = false) : exec i s = .fault (.registerFault rd) := by
  obtain ⟨k, hk⟩ := exec_eq_threeOperand s h
  rw [hk, threeOperand_fault_dest hx h2 hd]

theorem exec_li_fault (hd : writable rd = false) (imm : BitVec 22) :
    exec (.li rd imm) s = .fault (.registerFault rd) := by
  show execLi rd imm s = _
  rw [execLi, readSource, wcheck_fault hd]

theorem exec_ld_fault_address (ht : readable r2 = false) (rd : RegAddr) :
    exec (.ld rd r2) s = .fault (.registerFault r2) := by
  show execLd rd r2 s = _
  rw [execLd, readReg_fault ht]

theorem exec_ld_fault_dest (ht : readable r2 = true) (hd : writable rd = false) :
    exec (.ld rd r2) s = .fault (.registerFault rd) := by
  show execLd rd r2 s = _
  rw [execLd, readReg_ok ht, wcheck_fault hd]

theorem exec_storing_fault_address (hm : meaning i = .storing x r2) (hx : sourceReadable x = true)
    (ht : readable r2 = false) : exec i s = .fault (.registerFault r2) := by
  rw [exec_eq_run, hm, Meaning.run, store, readSource_ok hx, readReg_fault ht]

theorem exec_st_fault_value (h1 : readable r1 = false) (rt : RegAddr) :
    exec (.st r1 rt) s = .fault (.registerFault r1) := by
  show execSt r1 rt s = _
  rw [execSt, store, readSource, readReg_fault h1]

end RegisterFaults

/-- Settles O60. -/
theorem registerFaultOrder : Obligations.RegisterFaultOrder := by
  unfold Obligations.RegisterFaultOrder
  intro s rd r1 r2 imm imm20 imm22 rrr i13
  have hrrr : ∀ i ∈ rrr, (meaning i).operands = some (.reg r1, r2, rd) := by
    refine List.forall_iff_forall_mem.1 ?_
    exact ⟨rfl, rfl, rfl, rfl, rfl, rfl, rfl, rfl, rfl, rfl, rfl, rfl, rfl, rfl, rfl, rfl, rfl, rfl⟩
  have hi13 : ∀ i ∈ i13, (meaning i).operands = some (.imm13 imm, r2, rd) := by
    refine List.forall_iff_forall_mem.1 ?_
    exact ⟨rfl, rfl, rfl, rfl, rfl, rfl, rfl, rfl, rfl, rfl, rfl, rfl, rfl, rfl, rfl, rfl, rfl, rfl⟩
  refine ⟨fun h1 i hi => exec_fault_first s (hrrr i hi) h1,
    fun h1 h2 i hi => exec_fault_second s (hrrr i hi) h1 h2,
    fun h1 h2 hd i hi => exec_fault_dest s (hrrr i hi) h1 h2 hd,
    fun h2 i hi => exec_fault_second s (hi13 i hi) rfl h2,
    fun h2 hd i hi => exec_fault_dest s (hi13 i hi) rfl h2 hd,
    fun hd => exec_li_fault s hd imm22, fun h2 => ?_, fun h2 hd => exec_ld_fault_dest s h2 hd,
    fun h1 => exec_st_fault_value s h1 r2,
    fun h1 h2 => exec_storing_fault_address (x := .reg r1) s rfl h1 h2⟩
  simp only [List.forall_mem_cons, List.not_mem_nil, false_imp_iff, implies_true, and_true]
  exact ⟨exec_ld_fault_address s h2 rd, exec_storing_fault_address s rfl rfl h2⟩

/-! ### Memory Access (R122 to R126) -/

section Memory

variable {i : Instr} {s : State} {x : Source} {rd rt : RegAddr}

theorem writesMem_of_storing (hm : meaning i = .storing x rt) (hx : sourceReadable x = true)
    (ht : readable rt = true) (hal : aligned (s.reg rt) = true) (hv : s.memValid (s.reg rt) = true)
    {v : Word} (hval : s.source x = v := by rfl) : writesMem i s (s.reg rt) v := by
  subst hval
  have he : exec i s = .next (s.storeWord (s.reg rt) (s.source x)).advance := by
    rw [exec_eq_run, hm]
    exact store_next.2 ⟨hx, ht, hal, hv, rfl⟩
  have hbanks : SameBanks s (s.storeWord (s.reg rt) (s.source x)).advance := ⟨rfl, rfl, rfl, rfl, rfl⟩
  refine ⟨_, he, fun a => ?_, regsKept_of_sameBanks hbanks _, by simp, by simp [controlKept], by simp [sequential]⟩
  rw [advance_mem, storeWord_mem, readByte_writeWord]

theorem aligned_iff {addr : Word} : aligned addr = true ↔ addr.toNat % 4 = 0 := beq_iff_eq

theorem memRead_fault_misaligned {addr : Word} (h : addr.toNat % 4 ≠ 0) (k : Word → Result) :
    memRead addr s k = .fault (.misalignedData addr) := by
  rw [memRead, if_neg (mt aligned_iff.1 h)]
  rfl

theorem memRead_fault_outside {addr : Word} (h : addr.toNat % 4 = 0) (hv : s.memValid addr = false)
    (k : Word → Result) : memRead addr s k = .fault (.dataAccessFault addr) := by
  simp [memRead, aligned_iff.2 h, hv, raise]

theorem memRead_fault_unwritten {addr : Word} (h : addr.toNat % 4 = 0) (hv : s.memValid addr = true)
    (hw : s.mem.readWord s.cfg.byteOrder addr.toNat = none) (k : Word → Result) :
    memRead addr s k = .fault (.uninitialisedRead addr) := by
  simp [memRead, aligned_iff.2 h, hv, hw, raise]

theorem memWrite_fault_misaligned {addr : Word} (h : addr.toNat % 4 ≠ 0) (v : Word) (k : State → Result) :
    memWrite addr v s k = .fault (.misalignedData addr) := by
  rw [memWrite, if_neg (mt aligned_iff.1 h)]
  rfl

theorem memWrite_fault_outside {addr : Word} (h : addr.toNat % 4 = 0) (hv : s.memValid addr = false)
    (v : Word) (k : State → Result) : memWrite addr v s k = .fault (.dataAccessFault addr) := by
  simp [memWrite, aligned_iff.2 h, hv, raise]

/-- What a load does once its register fields pass. -/
theorem exec_ld (ht : readable rt = true) (hd : writable rd = true) :
    exec (.ld rd rt) s = memRead (s.reg rt) s fun v => .next (s.setReg rd v).advance := by
  show execLd rd rt s = _
  rw [execLd, readReg_ok ht, wcheck_ok hd]

/-- What a store does once its register fields pass. -/
theorem exec_storing (hm : meaning i = .storing x rt) (hx : sourceReadable x = true)
    (ht : readable rt = true) :
    exec i s = memWrite (s.reg rt) (s.source x) s fun t => .next t.advance := by
  rw [exec_eq_run, hm, Meaning.run, store, readSource_ok hx, readReg_ok ht]

end Memory

/-- Settles O47. -/
theorem loadForm : Obligations.LoadForm := by
  unfold Obligations.LoadForm
  exact fun s rd rt v h ht hd hal hv hw =>
    writesReg_of_exec h hd (execLd_next.2 ⟨ht, hd, hal, hv, v, hw, rfl⟩)

/-- Settles O48. -/
theorem storeForms : Obligations.StoreForms := by
  unfold Obligations.StoreForms
  exact fun s rv rt imm ht hal hv => ⟨fun h1 => writesMem_of_storing (x := .reg rv) rfl h1 ht hal hv,
    writesMem_of_storing rfl rfl ht hal hv⟩

/-- Settles O51: `ld` by the faults of `memRead`, `st` and `sti` by those of `memWrite`. -/
theorem memoryFaults : Obligations.MemoryFaults := by
  unfold Obligations.MemoryFaults
  intro s rd rv rt imm ht hd hv
  have hld := exec_ld (s := s) ht hd
  have hst := exec_storing (s := s) (i := .st rv rt) (x := .reg rv) rfl hv ht
  have hsti := exec_storing (s := s) (i := .sti imm rt) (x := .imm20 imm) rfl rfl ht
  simp only [List.forall_mem_cons, List.not_mem_nil, false_imp_iff, implies_true, and_true]
  rw [hld, hst, hsti]
  exact ⟨fun h => ⟨memRead_fault_misaligned h _, memWrite_fault_misaligned h _ _,
      memWrite_fault_misaligned h _ _⟩,
    fun h hout => ⟨memRead_fault_outside h hout _, memWrite_fault_outside h hout _ _,
      memWrite_fault_outside h hout _ _⟩,
    fun h hin hw => memRead_fault_unwritten h hin hw _⟩

end Sys2Proof.Machine

/-! Which instructions write which part of the state. -/

namespace Sys2Proof.Machine

/-! ### The effects, part by part -/

section Parts

variable {s t : State} {m : Meaning}

/-- Only the storing operation touches memory, at the aligned word it addresses. -/
theorem Effect.mem (h : Effect s m t) : t.mem = s.mem ∨ ∃ x rt, m = .storing x rt ∧
    aligned (s.reg rt) = true ∧ t.mem = s.mem.writeWord s.cfg.byteOrder (s.reg rt).toNat (s.source x) := by
  cases h with
  | storing x rt hal hv => exact .inr ⟨x, rt, rfl, hal, rfl⟩
  | _ => left; simp

theorem Effect.cwp (h : Effect s m t) : t.cwp = s.cwp ∨ ∃ adv p c, m = .window adv p c := by
  cases h with
  | window adv p c => exact .inr ⟨adv, p, c, rfl⟩
  | _ => left; simp

theorem Effect.icc (h : Effect s m t) : t.icc = s.icc ∨ (∃ f icc rd x r2, m = .arithCc f icc rd x r2) ∨
    ∃ adv p c, m = .window adv p c := by
  cases h with
  | arithCc f icc rd x r2 => exact .inr (.inl ⟨f, icc, rd, x, r2, rfl⟩)
  | window adv p c => exact .inr (.inr ⟨adv, p, c, rfl⟩)
  | _ => left; simp

theorem Effect.halted (h : Effect s m t) : t.halted = true ↔ s.halted = true ∨ m = .stop := by
  cases h <;> simp

theorem Effect.pc (h : Effect s m t) (hm : m ≠ .stop) : t.pc = s.npc := by
  cases h with
  | stop => exact absurd rfl hm
  | _ => simp

theorem Effect.npc (h : Effect s m t) (hm : m ≠ .stop) : t.npc = s.npc + 4 ∨
    (∃ rel rd x, m = .link rel rd x) ∨ ∃ rel an rd type x, m = .cond rel an rd type x := by
  cases h with
  | stop => exact absurd rfl hm
  | link rel rd x => exact .inr (.inl ⟨rel, rd, x, rfl⟩)
  | condTaken rel an rd type x => exact .inr (.inr ⟨rel, an, rd, type, x, rfl⟩)
  | _ => left; simp

/-- What sets `annul`: a Conditional Jump with A = 1, taken or under `ANNUL_NOT_TAKEN = annul` (R136). -/
theorem Effect.annul (h : Effect s m t) (hs : s.annul = false) (ht : t.annul = true) :
    ∃ rel rd type x, m = .cond rel true rd type x ∧
      (s.cfg.annulNotTaken = .execute → jumpTaken s type = true) := by
  cases h with
  | condTaken rel an rd type x htaken =>
    obtain rfl : an = true := ht
    exact ⟨rel, rd, type, x, rfl, fun _ => htaken⟩
  | condAnnulled rel rd type x ha =>
    exact ⟨rel, rd, type, x, rfl, fun he => by rw [ha] at he; cases he⟩
  | _ => simp_all

end Parts

/-! ### The writers of each part -/

/-- Settles O23. -/
theorem cwpWriters : Obligations.CwpWriters := by
  unfold Obligations.CwpWriters
  intro i s t h hne
  obtain heq | ⟨adv, p, c, hm⟩ := (effect_of_exec h).cwp
  · exact absurd heq hne
  · exact ⟨p, c, instr_of_window hm⟩

/-- Settles O24. -/
theorem memoryWriters : Obligations.MemoryWriters := by
  unfold Obligations.MemoryWriters
  intro i s t a h hne
  obtain heq | ⟨x, rt, hm, -, heq⟩ := (effect_of_exec h).mem
  · exact absurd (by rw [heq]) hne
  · rw [heq, readByte_writeWord] at hne
    refine ⟨rt, instr_of_storing hm, ?_⟩
    by_contra hout
    exact hne (if_neg hout)

theorem icc_of_window {i : Instr} {adv : Bool} {p c : RegAddr} {s t : State}
    (hm : meaning i = .window adv p c) (h : exec i s = .next t) : t.icc =
      iccOfWindow s.cfg (windowNext s.cfg.nwindows s.cwp adv) (windowWrap s.cfg.nwindows s.cwp adv) := by
  rw [exec_eq_run, hm] at h
  obtain ⟨-, -, -, rfl⟩ := windowMove_next.1 h
  exact windowMoved_icc adv p c s

theorem icc_of_arithCc {i : Instr} {f : Word → Word → Word} {icc : Config → Word → Word → Word}
    {rd r2 : RegAddr} {x : Source} {s t : State} (hm : meaning i = .arithCc f icc rd x r2)
    (h : exec i s = .next t) {u : Word} (hu : icc s.cfg (s.source x) (s.reg r2) = u := by rfl) :
    t.icc = u := by
  subst hu
  rw [exec_eq_run, hm] at h
  obtain ⟨-, -, -, rfl⟩ := computeCc_next.1 h
  rfl

/-- Settles O22. -/
theorem iccWriters : Obligations.IccWriters := by
  unfold Obligations.IccWriters
  refine ⟨fun i s t h hne => ?_, fun s t rd r1 r2 h => icc_of_arithCc rfl h,
    fun s t rd r1 r2 h => icc_of_arithCc rfl h, fun s t rd imm r2 h => icc_of_arithCc rfl h,
    fun s t rd imm r2 h => icc_of_arithCc rfl h,
    fun s t p c => ⟨fun h => ?_, fun h => ?_⟩⟩
  · obtain heq | ⟨f, icc, rd, x, r2, hm⟩ | ⟨adv, p, c, hm⟩ := (effect_of_exec h).icc
    · exact absurd heq hne
    · obtain hreg | himm := instr_of_arithCc hm
      · exact .inl hreg
      · exact .inr (.inl himm)
    · exact .inr (.inr ⟨p, c, instr_of_window hm⟩)
  · exact icc_of_window (adv := true) rfl h
  · exact icc_of_window (adv := false) rfl h

/-! ### Sequencing, `annul` and `halted` (R25, R31, R32) -/

theorem meaning_ne_stop {i : Instr} (h : i ≠ .halt) : meaning i ≠ .stop := mt meaning_eq_stop.1 h

/-- Settles O15. -/
theorem sequencingRule : Obligations.SequencingRule := by
  unfold Obligations.SequencingRule
  intro i s t h
  refine ⟨?_, fun hi => (effect_of_exec h).pc (meaning_ne_stop hi), fun hi h8 h9 => ?_⟩
  · rintro rfl
    obtain rfl := next_eq.1 h
    exact ⟨rfl, rfl⟩
  · obtain heq | ⟨rel, rd, x, hm⟩ | ⟨rel, an, rd, type, x, hm⟩ := (effect_of_exec h).npc (meaning_ne_stop hi)
    · exact heq
    · exact absurd (opcode_of_link hm) h8
    · exact absurd (opcode_of_cond hm) h9

/-- Settles O14. -/
theorem onlyAnnullingJumpsAnnul : Obligations.OnlyAnnullingJumpsAnnul := by
  unfold Obligations.OnlyAnnullingJumpsAnnul
  intro i s t h hs ht
  obtain ⟨rel, rd, type, x, hm, htaken⟩ := (effect_of_exec h).annul hs ht
  exact ⟨rd, type, instr_of_annulling hm, fun he => jumpTaken_iff.1 (htaken he)⟩

theorem step_halted {s : State} (h : s.halted = true) : step s = .fault .halted := by
  rw [step, if_pos h]
  rfl

/-- Settles O12. -/
theorem haltedRule : Obligations.HaltedRule := by
  unfold Obligations.HaltedRule
  refine ⟨fun c m => rfl, fun i s t h => ?_, fun s t h => (step_cases h).1, fun s => step_halted⟩
  rw [(effect_of_exec h).halted, meaning_eq_stop]

theorem exec_cond_sets_annul {i : Instr} {s : State} {rel : Bool} {rd : RegAddr} {type : BitVec 6}
    {x : Source} (hm : meaning i = .cond rel true rd type x) (htype : type.toNat < 32)
    (hx : sourceReadable x = true) (hd : writable rd = true)
    (ht : s.icc.getLsbD type.toNat = s.cfg.jumpSense) : ∃ t, exec i s = .next t ∧ t.annul = true := by
  refine ⟨_, exec_cond hm htype hx hd, ?_⟩
  rw [jumpTaken_iff.2 ht, condFlow_taken, jump_annul]

theorem step_annulled {s : State} (ha : s.annul = true) (hh : s.halted = false) (hal : aligned s.pc = true)
    (hv : s.memValid s.pc = true) : step s = .next s.skipAnnulled :=
  step_next.2 ⟨hh, hal, hv, .inl ⟨ha, rfl⟩⟩

/-- No register address reads `annul` (R31). -/
theorem reg_with_annul (s : State) (a : RegAddr) (b : Bool) :
    State.reg { s with annul := b } a = s.reg a := by
  change State.readLoc { s with annul := b } (locate s.cfg s.cwp a) = s.readLoc (locate s.cfg s.cwp a)
  cases locate s.cfg s.cwp a <;> rfl

/-- Settles O13. -/
theorem annulRule : Obligations.AnnulRule := by
  unfold Obligations.AnnulRule
  exact ⟨fun c m => rfl,
    fun s rd r1 type htype h1 hd ht => ⟨exec_cond_sets_annul (x := .reg r1) rfl htype h1 hd ht,
      exec_cond_sets_annul (x := .reg r1) rfl htype h1 hd ht⟩,
    fun s rd type imm htype hd ht => ⟨exec_cond_sets_annul rfl htype rfl hd ht,
      exec_cond_sets_annul rfl htype rfl hd ht⟩,
    fun s ha hh hal hv => step_annulled ha hh hal hv, reg_with_annul⟩

/-! ### The step (R25, R161) -/

section Step

variable {s t : State} {w : Word}

/-- What a step does once the checks on `pc` pass and nothing stops or annuls it. -/
theorem step_eq_fetch (hh : s.halted = false) (ha : s.annul = false) (hal : s.pc.toNat % 4 = 0)
    (hv : s.memValid s.pc = true) :
    step s = fetch s fun w => decodeThen s w fun i => exec i s := by
  simp [step, hh, fetchCheck, aligned_iff.2 hal, hv, ha]

theorem fetch_some (hw : s.fetchWord = some w) (k : Word → Result) : fetch s k = k w := by
  simp [fetch, hw]

theorem fetch_none (hw : s.fetchWord = none) (k : Word → Result) :
    fetch s k = .fault (.uninitialisedRead s.pc) := by
  simp [fetch, hw, raise]

theorem decodeThen_error {r : DecodeReject} (hd : decode s.cfg.logic2Map w = .error r)
    (k : Instr → Result) : decodeThen s w k = .fault (decodeFault w r) := by
  simp [decodeThen, hd, raise]

theorem step_fault_misaligned (hh : s.halted = false) (h : s.pc.toNat % 4 ≠ 0) :
    step s = .fault (.misalignedFetch s.pc) := by
  have hal : ¬ aligned s.pc = true := mt aligned_iff.1 h
  simp [step, hh, fetchCheck, hal, raise]

theorem step_fault_outside (hh : s.halted = false) (h : s.pc.toNat % 4 = 0) (hv : s.memValid s.pc = false) :
    step s = .fault (.fetchAccessFault s.pc) := by
  simp [step, hh, fetchCheck, aligned_iff.2 h, hv, raise]

/-- A step that does not halt the core moves `npc` to `pc`. -/
theorem step_pc (h : step s = .next t) (ht : t.halted = false) : t.pc = s.npc := by
  obtain ⟨hs, ⟨-, rfl⟩ | ⟨-, i, hi⟩⟩ := step_cases h
  · rfl
  · have heff := effect_of_exec hi
    refine heff.pc fun hstop => ?_
    rw [heff.halted.2 (.inr hstop)] at ht
    cases ht

end Step

/-- Settles O9. -/
theorem stepRunsDecodedInstruction : Obligations.StepRunsDecodedInstruction := by
  unfold Obligations.StepRunsDecodedInstruction
  intro s w i hh ha hal hv hw hd
  rw [step_eq_fetch hh ha (aligned_iff.1 hal) hv, fetch_some hw, decodeThen, hd]

/-- Settles O10. -/
theorem stepFaultsBeforeExecution : Obligations.StepFaultsBeforeExecution := by
  unfold Obligations.StepFaultsBeforeExecution
  refine fun s hh => ⟨step_fault_misaligned hh, step_fault_outside hh, fun hal hv ha => ?_⟩
  rw [step_eq_fetch hh ha hal hv]
  refine ⟨fun hw => fetch_none hw _, fun w hw => ?_⟩
  rw [fetch_some hw]
  refine ⟨fun h1 h2 => decodeThen_error (decode_of_fieldOp_illegal _ h1 h2) _,
    fun hd => decodeThen_error hd _, fun h9 htype => ?_⟩
  have hd : decode s.cfg.logic2Map w = .error (.iccBit (fieldR2 w)) := by
    rw [decode_of_fieldOp_nine _ (BitVec.eq_of_toNat_eq h9), decodeCondJump_iccBit htype]
  exact decodeThen_error hd _

/-- Settles O11: the jumps complete whatever their target, and the fault is that of the later step. -/
theorem misalignedTargetFaultsAtFetch : Obligations.MisalignedTargetFaultsAtFetch := by
  unfold Obligations.MisalignedTargetFaultsAtFetch
  obtain ⟨hlinkReg, hlinkImm⟩ := linkJumpForms
  obtain ⟨hcondReg, hcondImm⟩ := conditionalJumpTaken
  refine ⟨fun s rd r1 type h h1 hd => ?_, fun s rd imm h hd => ?_, fun s rd type imm h hd htype ht => ?_,
    fun s t u hst htu hu hmis => ?_⟩
  · obtain ⟨hjl, hjlr⟩ := hlinkReg s rd r1 h h1 hd
    have hcond := fun htype ht => hcondReg s rd r1 type h htype h1 hd ht
    exact ⟨fun _ => ⟨hjl, fun htype ht => ⟨(hcond htype ht).1, (hcond htype ht).2.1⟩⟩,
      fun _ => ⟨hjlr, fun htype ht => (hcond htype ht).2.2⟩⟩
  · obtain ⟨hjli, hjlri⟩ := hlinkImm s rd imm h hd
    exact ⟨fun _ => hjli, fun _ => hjlri⟩
  · obtain ⟨hjci, hjciA, hjcri, hjcriA⟩ := hcondImm s rd type imm h htype hd ht
    exact ⟨fun _ => ⟨hjci, hjciA⟩, fun _ => ⟨hjcri, hjcriA⟩⟩
  · have hpc : u.pc = t.npc := step_pc htu hu
    rw [← hpc] at hmis ⊢
    exact step_fault_misaligned hu hmis

/-- Settles O16. -/
theorem placedWordIsFetched : Obligations.PlacedWordIsFetched := by
  unfold Obligations.PlacedWordIsFetched
  intro s w
  have hw : BitVec.ofNat 32 (w % 2 ^ 32) = BitVec.ofNat 32 w := by
    apply BitVec.eq_of_toNat_eq
    rw [BitVec.toNat_ofNat, BitVec.toNat_ofNat, Nat.mod_mod]
  rw [State.withFetchWord, hw]
  refine ⟨readWord_writeWord_same .., fun a ha => ?_, rfl⟩
  rw [placeFetch_mem, readByte_writeWord, if_neg (by omega)]

/-! ### Reset (R33, R174) -/

/-- Settles O17. -/
theorem resetState : Obligations.ResetState := by
  unfold Obligations.ResetState
  exact ⟨fun c m => ⟨rfl, rfl, rfl, rfl, rfl, rfl, rfl, rfl, rfl⟩, rfl, rfl, rfl, rfl, rfl, rfl, rfl, rfl, rfl,
    rfl, rfl, rfl, rfl, rfl, rfl⟩

theorem resetWith_wf {c : Config} {m : Memory} (hc : c.legal = true) (hm : m.wf = true)
    (hin : m.within c.memValid = true) : (State.resetWith c m).wf = true := by
  have hcwp : c.resetCwp < c.nwindows := by
    simp only [Config.legal, Bool.and_eq_true, decide_eq_true_eq] at hc
    exact hc.2
  exact (wf_iff _).2 ⟨hc, hcwp, by simp, by simp, by simp, by simp, hm, hin⟩

/-- Settles O18. -/
theorem resetWellFormed : Obligations.ResetWellFormed := by
  unfold Obligations.ResetWellFormed
  exact ⟨fun c m => resetWith_wf, resetWith_wf rfl reset_mem_wf rfl⟩

/-! ### Immediates (R67) -/

theorem toInt_widen_sign {n : Nat} (hn : n ≤ 32) (v : BitVec n) : (widen .sign v).toInt = v.toInt :=
  BitVec.toInt_signExtend_of_le hn

theorem toNat_widen_zero {n : Nat} (hn : n ≤ 32) (v : BitVec n) : (widen .zero v).toNat = v.toNat := by
  have hlt : v.toNat < 2 ^ 32 := Nat.lt_of_lt_of_le v.isLt (Nat.pow_le_pow_right (by omega) hn)
  rw [widen, BitVec.zeroExtend_eq_setWidth, BitVec.toNat_setWidth, Nat.mod_eq_of_lt hlt]

/-- Settles O29. -/
theorem immediateWidening : Obligations.ImmediateWidening := by
  unfold Obligations.ImmediateWidening
  exact fun i j k => ⟨toInt_widen_sign (by omega) i, toInt_widen_sign (by omega) j,
    toInt_widen_sign (by omega) k, toNat_widen_zero (by omega) i, toNat_widen_zero (by omega) j,
    toNat_widen_zero (by omega) k⟩

end Sys2Proof.Machine

/-! What each register address reads, the windows, and what a load or a fetch sees of the stores before it. -/

namespace Sys2Proof.Machine

/-! ### Where a register address leads (R11, R13, R15, R19) -/

section Locate

variable (c : Config) (w : Nat) {a : RegAddr}

theorem locate_global (h : a.toNat < 0x08) : locate c w a = .global a.toNat := by
  simp [locate, h]

theorem locate_input (h1 : 0x08 ≤ a.toNat) (h2 : a.toNat < 0x10) :
    locate c w a = locateInput c w (a.toNat - 0x08) := by
  rw [locate, if_neg (by omega), if_pos h2]

theorem locate_local (h1 : 0x10 ≤ a.toNat) (h2 : a.toNat < 0x18) :
    locate c w a = .localReg w (a.toNat - 0x10) := by
  rw [locate, if_neg (by omega), if_neg (by omega), if_pos h2]

theorem locate_output (h1 : 0x18 ≤ a.toNat) (h2 : a.toNat < 0x20) :
    locate c w a = .output w (a.toNat - 0x18) := by
  rw [locate, if_neg (by omega), if_neg (by omega), if_neg (by omega), if_pos h2]

theorem locate_local_high (h1 : 0x20 ≤ a.toNat) (h2 : a.toNat < 0x28) :
    locate c w a = .localReg w (8 + (a.toNat - 0x20)) := by
  rw [locate, if_neg (by omega), if_neg (by omega), if_neg (by omega), if_neg (by omega), if_pos h2]

theorem locateInput_overlap {c : Config} (h : c.windowOverlap = .overlap) (k : Nat) :
    locateInput c w k = .output ((w + c.nwindows - 1) % c.nwindows) k := by
  simp [locateInput, h]

theorem locateInput_disjoint {c : Config} (h : c.windowOverlap = .disjoint) (k : Nat) :
    locateInput c w k = .input w k := by
  simp [locateInput, h]

end Locate

/-! ### Reads (R28) -/

/-- The addresses that can be read, and those that can be written, in numbers (R28, R29). -/
theorem access_classes (a : RegAddr) :
    (readable a = false ↔ (0x28 ≤ a.toNat ∧ a.toNat ≤ 0x30) ∨ (0x32 ≤ a.toNat ∧ a.toNat ≤ 0x3A) ∨
      a.toNat = 0x3D) ∧
    (writable a = false ↔ 0x28 ≤ a.toNat ∧ a.toNat ≤ 0x3D) := by
  revert a
  decide +kernel

/-- Settles O26. -/
theorem registerAccessClasses : Obligations.RegisterAccessClasses := by
  unfold Obligations.RegisterAccessClasses
  exact access_classes

theorem readable_of_general {a : RegAddr} (h : isGeneral a) : readable a = true := by
  have hlt : a.toNat < 0x28 := h
  simp [readable, hlt]

theorem getD_eq_getD {l : List Word} {k : Nat} (h : k < l.length) (d d' : Word) :
    l.getD k d = l.getD k d' := by
  rw [List.getD_eq_getElem _ _ h, List.getD_eq_getElem _ _ h]

section Reads

variable {s : State} {a : RegAddr}

/-- A read of a general register gives what its bank holds there. -/
theorem readReg_of_locate {l : Loc} (h : isGeneral a) (hl : locate s.cfg s.cwp a = l) {v : Word}
    (hv : s.readLoc l = v) (k : Word → Result) : readReg a s k = k v := by
  rw [readReg_ok (readable_of_general h), State.reg, hl, hv]

theorem readReg_of_eq {b : RegAddr} (h : a.toNat = b.toNat) (hb : readable b = true) (k : Word → Result) :
    readReg a s k = k (s.reg b) := by
  obtain rfl : a = b := BitVec.eq_of_toNat_eq h
  exact readReg_ok hb s k

end Reads

/-- Settles O27: each address by where it leads, which a well-formed state holds. -/
theorem registerReads : Obligations.RegisterReads := by
  unfold Obligations.RegisterReads
  intro s k a h
  have hp := (wf_iff s).1 h
  have hcwp := hp.cwp
  refine ⟨fun h1 => ?_, fun h1 h2 ho => ?_, fun h1 h2 ho => ?_, fun h1 h2 => ?_, fun h1 h2 => ?_,
    fun h1 h2 => ?_, fun h1 => readReg_of_eq (b := 0x31) h1 rfl k, fun h1 => readReg_of_eq (b := 0x3B) h1 rfl k,
    fun h1 => readReg_of_eq (b := 0x3C) h1 rfl k, fun h1 => readReg_of_eq (b := 0x3E) h1 rfl k,
    fun h1 => readReg_of_eq (b := 0x3F) h1 rfl k, fun h1 => readReg_fault ((access_classes a).1.2 h1) s k⟩
  · have hlt : a.toNat < s.globals.length := by rw [hp.globals]; omega
    exact readReg_of_locate (show a.toNat < 0x28 by omega) (locate_global _ _ (by omega))
      (getD_eq_getD hlt _ _) k
  · have hn : 2 ≤ s.cfg.nwindows := legal_nwindows hp.legal
    rw [← window_below hn hcwp]
    have hbelow : (s.cwp + s.cfg.nwindows - 1) % s.cfg.nwindows < s.cfg.nwindows := Nat.mod_lt _ (by omega)
    have hlt : 8 * ((s.cwp + s.cfg.nwindows - 1) % s.cfg.nwindows) + (a.toNat - 0x08) < s.outputs.length := by
      rw [hp.outputs]; omega
    exact readReg_of_locate (show a.toNat < 0x28 by omega)
      ((locate_input _ _ h1 (by omega)).trans (locateInput_overlap _ ho _)) (getD_eq_getD hlt _ _) k
  · have hlt : 8 * s.cwp + (a.toNat - 0x08) < s.inputs.length := by
      rw [hp.inputs, inputWords, ho]; dsimp only; omega
    exact readReg_of_locate (show a.toNat < 0x28 by omega)
      ((locate_input _ _ h1 (by omega)).trans (locateInput_disjoint _ ho _)) (getD_eq_getD hlt _ _) k
  · have hlt : 16 * s.cwp + (a.toNat - 0x10) < s.locals.length := by rw [hp.locals]; omega
    exact readReg_of_locate (show a.toNat < 0x28 by omega) (locate_local _ _ h1 (by omega))
      (getD_eq_getD hlt _ _) k
  · have hlt : 8 * s.cwp + (a.toNat - 0x18) < s.outputs.length := by rw [hp.outputs]; omega
    exact readReg_of_locate (show a.toNat < 0x28 by omega) (locate_output _ _ h1 (by omega))
      (getD_eq_getD hlt _ _) k
  · have hlt : 16 * s.cwp + 8 + (a.toNat - 0x20) < s.locals.length := by rw [hp.locals]; omega
    rw [Nat.add_assoc] at hlt ⊢
    exact readReg_of_locate (show a.toNat < 0x28 by omega) (locate_local_high _ _ h1 (by omega))
      (getD_eq_getD hlt _ _) k

/-- Settles O28. -/
theorem constantRegisters : Obligations.ConstantRegisters := by
  unfold Obligations.ConstantRegisters
  refine fun s => ⟨fun w => ⟨rfl, rfl⟩, fun rd hrd => ?_⟩
  have hconst : isConstant rd = true := by rcases hrd with rfl | rfl <;> rfl
  have hd : writable rd = true := by rcases hrd with rfl | rfl <;> rfl
  have hset : ∀ v, s.setReg rd v = s := setReg_constant hconst s
  refine ⟨hset, wcheck_ok hd, fun imm => ?_, fun r1 r2 h1 h2 => ?_⟩
  · exact execLi_next.2 ⟨hd, by rw [hset]⟩
  · exact (compute_next (x := .reg r1)).2 ⟨h1, h2, hd, by rw [hset]⟩

/-! ### The Register Window forms (R127 to R129) -/

section Window

variable {i : Instr} {adv : Bool} {p c : RegAddr} {s : State}

theorem not_general_of_constant {a : RegAddr} (h : isConstant a = true) : ¬ isGeneral a := by
  simp only [isConstant, Bool.or_eq_true, beq_iff_eq] at h
  rcases h with rfl | rfl <;> simp [isGeneral]

theorem exec_window_fault_prev (hm : meaning i = .window adv p c) (hp : writable p = false) :
    exec i s = .fault (.registerFault p) := by
  rw [exec_eq_run, hm, Meaning.run, windowMove, wcheck_fault hp]

theorem exec_window_fault_cur (hm : meaning i = .window adv p c) (hp : writable p = true)
    (hc : writable c = false) : exec i s = .fault (.registerFault c) := by
  rw [exec_eq_run, hm, Meaning.run, windowMove, wcheck_ok hp, wcheck_fault hc]

theorem writable_of_general {a : RegAddr} (h : isGeneral a) : writable a = true := by
  have hlt : a.toNat < 0x28 := h
  simp [writable, hlt]

theorem exec_window_fault_same (hm : meaning i = .window adv p p) (hp : isGeneral p) :
    exec i s = .fault (.windowDestFault p) := by
  have hconst : isConstant p = false := by
    simpa using fun h => not_general_of_constant (a := p) h hp
  rw [exec_eq_run, hm, Meaning.run, windowMove, wcheck_ok (writable_of_general hp),
    wcheck_ok (writable_of_general hp), hconst]
  simp [raise]

/-- `i` moves the index to `new` and completes, with its destinations in the new window (R127). -/
def movesWindow (s : State) (p c : RegAddr) (i : Instr) (new : Nat) (wrap : Bool) : Prop :=
  ∃ t, exec i s = .next t ∧ t.cwp = new ∧
    (isGeneral p → t.reg p = BitVec.ofNat 32 s.cwp) ∧
    (isGeneral c → t.reg c = BitVec.ofNat 32 new) ∧
    regsKept s t [locate s.cfg new p, locate s.cfg new c] ∧
    t.icc = iccLayout s.cfg.iccLayout (BitVec.ofNat 32 new) false wrap ∧
    memKept s t ∧ t.cfg = s.cfg ∧ t.psr = s.psr ∧ t.annul = s.annul ∧ t.halted = s.halted ∧
    sequential s t

/-- The state with the index moved and the two destinations written. -/
def windowWritten (adv : Bool) (p c : RegAddr) (s : State) : State :=
  let new := windowNext s.cfg.nwindows s.cwp adv
  ((s.setCwp new).setReg p (BitVec.ofNat 32 s.cwp)).setReg c (BitVec.ofNat 32 new)

theorem windowWritten_cwp : (windowWritten adv p c s).cwp = windowNext s.cfg.nwindows s.cwp adv := by
  simp [windowWritten]

theorem windowMoved_sameBanks : SameBanks (windowWritten adv p c s) (windowMoved adv p c s) :=
  ⟨rfl, rfl, rfl, rfl, rfl⟩

/-- A general register reads after a window move as the destinations left it. -/
theorem windowMoved_reg {a : RegAddr} (ha : isGeneral a) :
    (windowMoved adv p c s).reg a = (windowWritten adv p c s).reg a := by
  have hbanks := regIn_of_sameBanks (windowMoved_sameBanks (adv := adv) (p := p) (c := c) (s := s))
    (windowNext s.cfg.nwindows s.cwp adv) ha
  rw [State.regIn, State.regIn] at hbanks
  rw [State.reg, State.reg, windowMoved_cwp, windowWritten_cwp, hbanks]

theorem setCwp_windowNext_wf (h : s.wf = true) :
    (s.setCwp (windowNext s.cfg.nwindows s.cwp adv)).wf = true :=
  setCwp_wf h (windowNext_lt adv (legal_nwindows ((wf_iff s).1 h).legal) _)

theorem windowMoved_reg_cur (h : s.wf = true) (hc : isGeneral c) :
    (windowMoved adv p c s).reg c = BitVec.ofNat 32 (windowNext s.cfg.nwindows s.cwp adv) := by
  rw [windowMoved_reg hc]
  exact reg_setReg_same (setReg_wf (setCwp_windowNext_wf h) _ _) hc _

theorem windowMoved_reg_prev (h : s.wf = true) (hp : isGeneral p) (hne : p ≠ c) :
    (windowMoved adv p c s).reg p = BitVec.ofNat 32 s.cwp := by
  rw [windowMoved_reg hp, windowWritten, reg_setReg_other (setReg_wf (setCwp_windowNext_wf h) _ _) hne]
  exact reg_setReg_same (setCwp_windowNext_wf h) hp _

theorem windowMoved_regsKept (h : s.wf = true) (hp : writable p = true) (hc : writable c = true) :
    regsKept s (windowMoved adv p c s)
      [locate s.cfg (windowNext s.cfg.nwindows s.cwp adv) p,
        locate s.cfg (windowNext s.cfg.nwindows s.cwp adv) c] := by
  intro w a hw ha hnot
  obtain ⟨hnep, hnec⟩ : locate s.cfg w a ≠ locate s.cfg (windowNext s.cfg.nwindows s.cwp adv) p ∧
      locate s.cfg w a ≠ locate s.cfg (windowNext s.cfg.nwindows s.cwp adv) c := by
    simpa using hnot
  have hwf := setCwp_windowNext_wf (adv := adv) h
  have hcwp : SameBanks s (s.setCwp (windowNext s.cfg.nwindows s.cwp adv)) := ⟨rfl, rfl, rfl, rfl, rfl⟩
  rw [regIn_of_sameBanks windowMoved_sameBanks w ha, windowWritten,
    regIn_setReg_other (setReg_wf hwf _ _) hc (by simpa using hw) ha (by simpa [State.dest] using hnec),
    regIn_setReg_other hwf hp hw ha (by simpa [State.dest] using hnep), regIn_of_sameBanks hcwp w ha]

theorem movesWindow_of_meaning (hm : meaning i = .window adv p c) (h : s.wf = true)
    (hp : writable p = true) (hc : writable c = true) (hsame : p = c → isConstant p = true) :
    movesWindow s p c i (windowNext s.cfg.nwindows s.cwp adv) (windowWrap s.cfg.nwindows s.cwp adv) := by
  have he : exec i s = .next (windowMoved adv p c s) := by
    rw [exec_eq_run, hm]
    exact windowMove_next.2 ⟨hp, hc, hsame, rfl⟩
  exact ⟨_, he, windowMoved_cwp .., fun hgen => windowMoved_reg_prev h hgen fun heq =>
      not_general_of_constant (hsame heq) hgen, windowMoved_reg_cur h, windowMoved_regsKept h hp hc,
    windowMoved_icc .., fun a => by simp, by simp, by simp, by simp, by simp, by simp [sequential]⟩

theorem windowNext_above {n w : Nat} (hw : w < n) :
    windowNext n w true = if w = n - 1 then 0 else w + 1 := by
  rw [windowNext, if_pos rfl, window_above hw]
  split <;> split <;> omega

theorem windowNext_below {n w : Nat} (hn : 2 ≤ n) (hw : w < n) :
    windowNext n w false = if w = 0 then n - 1 else w - 1 :=
  window_below hn hw

theorem windowWrap_above {n w : Nat} (hw : w < n) : windowWrap n w true = decide (w = n - 1) :=
  decide_eq_decide.2 (by omega)

end Window

/-- Settles O52. -/
theorem windowForms : Obligations.WindowForms := by
  unfold Obligations.WindowForms
  intro s p c h
  have hparts := (wf_iff s).1 h
  have hn : 2 ≤ s.cfg.nwindows := legal_nwindows hparts.legal
  refine ⟨fun i hi => ?_, fun hp hc hsame => ⟨?_, ?_⟩⟩
  · have hm : ∃ adv, meaning i = .window adv p c := by
      revert i
      exact List.forall_iff_forall_mem.1 ⟨⟨_, rfl⟩, ⟨_, rfl⟩⟩
    obtain ⟨adv, hm⟩ := hm
    exact ⟨exec_window_fault_prev hm, exec_window_fault_cur hm, fun hgen heq => by
      subst heq
      exact exec_window_fault_same hm hgen⟩
  · rw [← windowNext_above hparts.cwp, ← windowWrap_above hparts.cwp]
    exact movesWindow_of_meaning rfl h hp hc hsame
  · rw [← windowNext_below hn hparts.cwp]
    exact movesWindow_of_meaning (adv := false) rfl h hp hc hsame

/-! ### Values passed between windows (R15) -/

section Pass

variable {s : State} {p c : RegAddr}

theorem setReg_outputs {a : RegAddr} (ha : a.toNat < 8 ∨ isConstant a = true) (v : Word) :
    (s.setReg a v).outputs = s.outputs := by
  rcases ha with hglobal | hconst
  · rw [State.setReg, locate_global _ _ hglobal]
    rfl
  · rw [setReg_constant hconst]

/-- A window move whose destinations are globals or constants leaves the outputs of every window. -/
theorem windowMoved_outputs (hp : p.toNat < 8 ∨ isConstant p = true) (hc : c.toNat < 8 ∨ isConstant c = true)
    (adv : Bool) : (windowMoved adv p c s).outputs = s.outputs := by
  rw [windowMoved, advance_outputs, setIcc_outputs, setReg_outputs hc, setReg_outputs hp, setCwp_outputs]

theorem reg_input {k : Nat} (hk : k < 8) (ho : s.cfg.windowOverlap = .overlap) :
    s.reg (BitVec.ofNat 6 (0x08 + k)) =
      s.outputs.getD (8 * ((s.cwp + s.cfg.nwindows - 1) % s.cfg.nwindows) + k) unspecifiedWord := by
  have ha : (BitVec.ofNat 6 (0x08 + k)).toNat = 0x08 + k := by
    rw [BitVec.toNat_ofNat, Nat.mod_eq_of_lt (by omega)]
  rw [State.reg, locate_input _ _ (by omega) (by omega), locateInput_overlap _ ho, ha,
    Nat.add_sub_cancel_left, State.readLoc]

theorem reg_output {k : Nat} (hk : k < 8) :
    s.reg (BitVec.ofNat 6 (0x18 + k)) = s.outputs.getD (8 * s.cwp + k) unspecifiedWord := by
  have ha : (BitVec.ofNat 6 (0x18 + k)).toNat = 0x18 + k := by
    rw [BitVec.toNat_ofNat, Nat.mod_eq_of_lt (by omega)]
  rw [State.reg, locate_output _ _ (by omega) (by omega), ha, Nat.add_sub_cancel_left, State.readLoc]

/-- The window below the one above is the window itself. -/
theorem below_above {n w : Nat} (hn : 2 ≤ n) (hw : w < n) : ((w + 1) % n + n - 1) % n = w := by
  rw [window_below hn (Nat.mod_lt _ (by omega)), window_above hw]
  split <;> split <;> omega

end Pass

/-- Settles O53. -/
theorem windowsPassValues : Obligations.WindowsPassValues := by
  unfold Obligations.WindowsPassValues
  intro s t p c k h ho hk hp hc
  have hparts := (wf_iff s).1 h
  have hn : 2 ≤ s.cfg.nwindows := legal_nwindows hparts.legal
  refine ⟨fun he => ?_, fun he => ?_⟩
  · obtain ⟨-, -, -, rfl⟩ := windowMove_next.1 he
    rw [reg_input hk (by simpa using ho), reg_output hk, windowMoved_outputs hp hc, windowMoved_cfg,
      windowMoved_cwp, windowNext, if_pos rfl, below_above hn hparts.cwp]
  · obtain ⟨-, -, -, rfl⟩ := windowMove_next.1 he
    rw [reg_input hk ho, reg_output hk, windowMoved_outputs hp hc, windowMoved_cwp]
    rfl

/-! ### Loads and fetches after stores (R40, R46, R49) -/

section Stores

variable {s t u : State} {addr v : Word}

/-- What `st` or `sti` leaves when it completes (R125, R126). -/
theorem store_of_exec {rt : RegAddr}
    (h : (∃ rv, exec (.st rv rt) s = .next t ∧ v = s.reg rv) ∨
      (∃ imm, exec (.sti imm rt) s = .next t ∧ v = widen s.cfg.immExt imm)) :
    aligned (s.reg rt) = true ∧ s.memValid (s.reg rt) = true ∧ t = (s.storeWord (s.reg rt) v).advance := by
  obtain ⟨rv, he, rfl⟩ | ⟨imm, he, rfl⟩ := h
  · obtain ⟨-, -, hal, hv, ht⟩ := (store_next (x := .reg rv)).1 he
    exact ⟨hal, hv, ht⟩
  · obtain ⟨-, -, hal, hv, ht⟩ := (store_next (x := .imm20 imm)).1 he
    exact ⟨hal, hv, ht⟩

/-- The word at an aligned address, as `s` reads it. -/
def wordAt (addr : Word) (s : State) : Option Word := s.mem.readWord s.cfg.byteOrder addr.toNat

/-- A step that stores nothing at an aligned address keeps the word there. -/
theorem step_keeps_word (hal : aligned addr = true) (hno : ¬ storesTo s addr) (h : step s = .next t) :
    wordAt addr t = wordAt addr s := by
  rw [wordAt, wordAt, step_keeps_cfg h]
  obtain ⟨-, -, -, ⟨-, rfl⟩ | ⟨ha, w, i, hw, hd, hi⟩⟩ := step_next.1 h
  · rfl
  · obtain heq | ⟨x, rt, hm, halt, heq⟩ := (effect_of_exec hi).mem
    · rw [heq]
    · have hne : s.reg rt ≠ addr := fun heq =>
        hno ((storesTo_of_decode hw hd).2 ⟨ha, rt, instr_of_storing hm, heq⟩)
      have hnat : (s.reg rt).toNat ≠ addr.toNat := mt BitVec.eq_of_toNat_eq hne
      rw [aligned_iff] at hal halt
      rw [heq, readWord_writeWord_disjoint _ _ _ _ (by omega)]

theorem stepsWithoutStore_keeps_word (hal : aligned addr = true) (h : StepsWithoutStore addr s u) :
    wordAt addr u = wordAt addr s :=
  stepsWithoutStore_keeps (P := fun u => wordAt addr u = wordAt addr s)
    (fun _ _ ih hno hstep => (step_keeps_word hal hno hstep).trans ih) h rfl

theorem stepsWithoutStore_keeps_cfg (h : StepsWithoutStore addr s u) : u.cfg = s.cfg :=
  stepsWithoutStore_keeps (P := fun u => u.cfg = s.cfg)
    (fun _ _ ih _ hstep => (step_keeps_cfg hstep).trans ih) h rfl

theorem stepsWithoutStore_keeps_wf (h : StepsWithoutStore addr s u) (hs : s.wf = true) : u.wf = true :=
  stepsWithoutStore_keeps (P := fun u => u.wf = true) (fun _ _ ih _ hstep => step_keeps_wf ih hstep) h hs

theorem wordAt_storeWord_advance : wordAt addr (s.storeWord addr v).advance = some v :=
  readWord_writeWord_same ..

end Stores

/-- Settles O49: the steps between keep the word, the parameters and the invariant. -/
theorem loadReturnsStoredWord : Obligations.LoadReturnsStoredWord := by
  unfold Obligations.LoadReturnsStoredWord
  refine ⟨fun s t u rt rd ra v h hstore hsteps ha hd haddr => ?_,
    fun s u addr hal hsteps => stepsWithoutStore_keeps_word hal hsteps⟩
  obtain ⟨hal, hv, rfl⟩ := store_of_exec hstore
  have hu : u.wf = true := stepsWithoutStore_keeps_wf hsteps (storeWord_wf h v hal hv)
  have hword : wordAt (s.reg rt) u = some v :=
    (stepsWithoutStore_keeps_word hal hsteps).trans wordAt_storeWord_advance
  have hvalid : u.memValid (s.reg rt) = true := by
    rw [State.memValid, stepsWithoutStore_keeps_cfg hsteps]
    exact hv
  rw [← haddr] at hal hvalid hword
  exact writesReg_of_exec hu hd (execLd_next.2 ⟨ha, hd, hal, hvalid, v, hword, rfl⟩)

/-- Settles O50: a fetch reads the word at `pc`. -/
theorem fetchSeesStore : Obligations.FetchSeesStore := by
  unfold Obligations.FetchSeesStore
  intro s t rt v hstore
  obtain ⟨hal, -, rfl⟩ := store_of_exec hstore
  have hfetch : ∀ u : State, u.pc = s.reg rt → u.fetchWord = wordAt (s.reg rt) u := by
    intro u hpc
    rw [State.fetchWord, wordAt, hpc]
  refine ⟨fun hnpc => ?_, fun u hsteps hpc => ?_, fun u hmem hcfg hpc => ?_⟩
  · exact (hfetch _ hnpc).trans wordAt_storeWord_advance
  · rw [hfetch u hpc, stepsWithoutStore_keeps_word hal hsteps, wordAt_storeWord_advance]
  · rw [hfetch u hpc, wordAt, hmem, hcfg]
    exact wordAt_storeWord_advance

end Sys2Proof.Machine
